-- ==== Sys2Proof/Word.lean ====
section
/-! DEFINITION. The word types of the part: bytes, station numbers, tickets, regions and local times. -/

namespace Sys2Proof

/-- A byte of a frame, a request or a notice; a handle; a tag; a sequence number. -/
abbrev Byte := BitVec 8

/-- A station number, 0 to 15 (R190). -/
abbrev Station := BitVec 4

/-- A calibration ticket, a digest, or another 16-bit value. -/
abbrev Word16 := BitVec 16

/-- A region number, 0 to 3 (R104). -/
abbrev RegionNo := BitVec 2

/-- A local time or a length of time in quarter microseconds, the nominal bit time of R27. -/
abbrev Time := Nat

end Sys2Proof
end

