-- ==== Sys2Proof/Config.lean ====
section
/-! DEFINITION. What the manual fixes for every DBC-16: capacities and counter limits.
The manual calls no value undefined and leaves none to the implementation, so no free value stands here (log 32). -/

namespace Sys2Proof.Config

/-- Capacity of the holdings list (R1). -/
def holdingsCap : Nat := 32
/-- Capacity of the surge history (R3). -/
def surgeCap : Nat := 16
/-- Places of the notice queue (R178). -/
def noticeCap : Nat := 16
/-- Entries of the local operation queue (R153). -/
def queueCap : Nat := 8
/-- Limit of the saturating 16-bit counters (R34, R35, R41, R81, R94, R178). -/
def counterMax : Nat := 65535
/-- Limit of the arbitration loss count (R32). -/
def lossMax : Nat := 255
/-- Bus errors in a row that make a link fault (R34). -/
def errorRun : Nat := 16
/-- Completed repeats after which a frame is finished or undelivered (R40, R41). -/
def maxRepeats : Nat := 3
/-- The reserve that non-urgent claims leave free (R8). -/
def reserve : Int := 4

end Sys2Proof.Config
end

