-- ==== Sys2Proof/Syntax.lean ====
section
/-! DEFINITION. The commands of the part, one constructor per row of spec/opcode_table.json, and the types of their
operands. -/

namespace Sys2Proof

/-- The four classes of heavy operation (R7). -/
inductive Cls where
  | rfb
  | cal
  | scb
  | ini
deriving DecidableEq, Repr

/-- What a receiver reads from the header of a frame: the station field, the fresh flag and the sequence
number (R185). The patience field matters to arbitration alone. -/
structure Head where
  station : Station
  fresh : Bool
  seq : Byte
deriving DecidableEq, Repr

/-- The content of a frame by kind, as its payload bytes carry it (R30, R186). -/
inductive Body where
  | release (handle outcome : Byte)
  | extend (handle number : Byte)
  | claim (urgent : Bool) (handle cls units target : Byte)
  | plea
  | clear
  | intent (action : Byte) (ticket : Word16)
  | holding (handle cls units target extensions remaining : Byte)
  | summary (flags : Byte) (ticket next : Word16)
  | resync
  | beacon (digest : Word16) (flags : Byte)
  | join (budget version : Byte)
  | leave
deriving DecidableEq, Repr

/-- A frame as the line carried it, before any check of R35: whether every sync position read dominant,
the three header bytes, the payload bytes that arrived and the CRC byte. -/
structure RawFrame where
  syncOk : Bool
  byte0 : Byte
  byte1 : Byte
  byte2 : Byte
  payload : List Byte
  crc : Byte
deriving DecidableEq, Repr

/-- A request whose form passed the checks of R171, with its field bytes (R187). -/
inductive Request where
  | setup (modes start stop : Byte)
  | submit (tag cls region : Byte) (notAfter : Word16)
  | cancel (tag : Byte)
  | done (handle outcome : Byte)
  | rate (grade : Byte)
  | hold
  | resume
  | query (topic part : Byte)
  | leave
  | rejoin
deriving DecidableEq, Repr

/-- What RESET_RELEASE finds beside the station number: the levels of BC1 and BC0 (R190), and whether CS_N is already
low (R170). -/
structure ReleasePins where
  budget : BitVec 2
  csLow : Bool
deriving DecidableEq, Repr

/-- The two bytes of an acknowledgement field as they stood on the line, a slot that a station drove being 0 (R185). -/
structure AckBytes where
  first : Byte
  second : Byte
deriving DecidableEq, Repr

/-- The clocks of a TAKE: the whole bytes clocked out after its code, and how many further notices the part judges
before CS_N rises; with 0 it rises before any other event (R172, R178, log 39). -/
structure TakeClocks where
  bytes : Nat
  through : Nat
deriving DecidableEq, Repr

/-- The commands the part takes. The operand `dt` of a command from outside is the time that passed since
the command before it (log 1). The moments of the part's own timers carry none: they take place at the
timer's end (log 2). RESET_RELEASE, SEND_COMPLETE and TAKE say what the part then finds on its pins. -/
inductive Instr where
  -- resets
  | powerOnReset
  | lineReset
  | resetRelease (dt : Time) (sid : BitVec 4) (pins : ReleasePins)
  -- the station's own frames on the line
  | busFree (dt : Time)
  | arbitrationLoss (dt : Time)
  | bitError (dt : Time)
  | sendComplete (dt : Time) (acks : AckBytes)
  -- frames received
  | frameRejected (dt : Time) (raw : RawFrame)
  | claimReceived (dt : Time) (head : Head) (handle cls units target : Byte)
  | urgentClaimReceived (dt : Time) (head : Head) (handle cls units target : Byte)
  | releaseReceived (dt : Time) (head : Head) (handle outcome : Byte)
  | extendReceived (dt : Time) (head : Head) (handle number : Byte)
  | pleaReceived (dt : Time) (head : Head)
  | clearReceived (dt : Time) (head : Head)
  | intentEnqueueReceived (dt : Time) (head : Head) (ticket : Word16)
  | intentRequeueReceived (dt : Time) (head : Head) (ticket : Word16)
  | intentWithdrawReceived (dt : Time) (head : Head) (ticket : Word16)
  | holdingReceived (dt : Time) (head : Head) (handle cls units target extensions remaining : Byte)
  | summaryReceived (dt : Time) (head : Head) (flags : Byte) (ticket next : Word16)
  | resyncReceived (dt : Time) (head : Head)
  | beaconReceived (dt : Time) (head : Head) (digest : Word16) (flags : Byte)
  | joinReceived (dt : Time) (head : Head) (budget version : Byte)
  | leaveReceived (dt : Time) (head : Head)
  -- moments of the part's timers and conditions
  | listenTimerExpiry
  | collectTimerExpiry
  | beaconTimerExpiry
  | silence (station : Station)
  | peerExpiry (station : Station) (handle : Byte)
  | surgeEntryAgeing
  | leaseTimerExpiry (handle : Byte)
  | accrualTimerExpiry (region : RegionNo)
  | headTimerExpiry
  | selectionTimerExpiry
  | deadlinePasses (tag : Byte)
  | ownHoldingsDrained
  | linkFaultRecovery
  -- requests of the controller, each one PUT transfer
  | setup (dt : Time) (modes start stop : Byte)
  | submit (dt : Time) (tag cls region : Byte) (notAfter : Word16)
  | cancel (dt : Time) (tag : Byte)
  | done (dt : Time) (handle outcome : Byte)
  | rate (dt : Time) (grade : Byte)
  | hold (dt : Time)
  | resume (dt : Time)
  | queryStation (dt : Time) (part : Byte)
  | queryRegions (dt : Time) (part : Byte)
  | queryTable (dt : Time) (part : Byte)
  | queryRoster (dt : Time) (part : Byte)
  | queryQueue (dt : Time) (part : Byte)
  | queryCounters (dt : Time) (part : Byte)
  | leaveRequest (dt : Time)
  | rejoin (dt : Time)
  -- other transfers of the controller
  | putMalformed (dt : Time) (bytes : List Byte)
  | transferCodeInvalid (dt : Time) (code : Option Byte)
  | take (dt : Time) (clocks : TakeClocks)
  | peek (dt : Time) (clocked : Nat)
  | frameBearingOwnNumber (dt : Time)
deriving DecidableEq, Repr

end Sys2Proof
end

