-- ==== Sys2Proof/Decode.lean ====
section
/-! DEFINITION. Reading what the line and the controller port carry: class codes, the frame CRC, the receiver's
checks 1 to 5 of R35, the form checks of R171, and the (empty) reading of opcode-table words. -/

namespace Sys2Proof

/-- The class a code names (R7, R186). -/
def Cls.ofCode (b : Byte) : Option Cls :=
  match b.toNat with
  | 0 => some .rfb
  | 1 => some .cal
  | 2 => some .scb
  | 3 => some .ini
  | _ => none

/-- The code of a class (R7). -/
def Cls.code : Cls → Byte
  | .rfb => 0
  | .cal => 1
  | .scb => 2
  | .ini => 3

/-- The cost of a class in units (R7). -/
def Cls.units : Cls → Nat
  | .rfb => 3
  | .cal => 2
  | .scb => 6
  | .ini => 12

/-- Check 5 of R35: the class is one of the four and the units are its cost. -/
def claimCostOk (cls units : Byte) : Bool :=
  match Cls.ofCode cls with
  | some c => units.toNat == c.units
  | none => false

/-- One data bit into the frame CRC register, polynomial 07h (R29). -/
def crc8Bit (r : BitVec 8) (b : Bool) : BitVec 8 :=
  if r.msb != b then (r <<< 1) ^^^ 0x07#8 else r <<< 1

/-- The bits of a byte, most significant first. -/
def byteBits (b : Byte) : List Bool :=
  [b.getLsbD 7, b.getLsbD 6, b.getLsbD 5, b.getLsbD 4, b.getLsbD 3, b.getLsbD 2, b.getLsbD 1, b.getLsbD 0]

/-- The frame CRC of R29 over header and payload bytes: initial value FFh, no reflection, no inversion. -/
def crc8 (bs : List Byte) : Byte :=
  (bs.flatMap byteBits).foldl crc8Bit 0xFF#8

/-- A 16-bit value from two bytes, most significant first (chapter 11). -/
def word16 (hi lo : Byte) : Word16 := hi ++ lo

/-- The content of a frame from its kind code and payload bytes; `none` where the kind is 13 to 15 or the
length is not the kind's (R30, R185, R186). -/
def Body.ofPayload (kind : BitVec 4) (p : List Byte) : Option Body :=
  match kind.toNat, p with
  | 0, [h, o] => some (.release h o)
  | 1, [h, n] => some (.extend h n)
  | 2, [h, c, u, t] => some (.claim true h c u t)
  | 3, [] => some .plea
  | 4, [] => some .clear
  | 5, [h, c, u, t] => some (.claim false h c u t)
  | 6, [a, x, y] => some (.intent a (word16 x y))
  | 7, [h, c, u, t, e, r] => some (.holding h c u t e r)
  | 8, [f, a, b, c, d] => some (.summary f (word16 a b) (word16 c d))
  | 9, [] => some .resync
  | 10, [x, y, f] => some (.beacon (word16 x y) f)
  | 11, [b, v] => some (.join b v)
  | 12, [] => some .leave
  | _, _ => none

/-- The length field of a frame: bits 3 to 0 of header byte 1 (R185). -/
def RawFrame.length (f : RawFrame) : Nat := (f.byte1.extractLsb' 0 4).toNat

/-- Check 5 of R35 on the content: a CLAIM or URGENT CLAIM carries one of the four classes and its cost. -/
def Body.costOk : Body → Bool
  | .claim _ _ c u _ => claimCostOk c u
  | _ => true

/-- Checks 1 to 5 of R35 in their order: the frame's head and content, or `none` where it is discarded. -/
def RawFrame.read (f : RawFrame) : Option (Head × Body) :=
  if f.syncOk && f.length ≤ 8 && f.payload.length == f.length
      && crc8 ([f.byte0, f.byte1, f.byte2] ++ f.payload) == f.crc then
    match Body.ofPayload (f.byte0.extractLsb' 4 4) f.payload with
    | some b =>
      if b.costOk then
        some ({ station := f.byte1.extractLsb' 4 4, fresh := f.byte0.getLsbD 0, seq := f.byte2 }, b)
      else none
    | none => none
  else none

/-- A request from its type byte and its field bytes, where the length is the one fixed for the type
(R187). -/
def Request.ofFields (type : Byte) (fields : List Byte) : Option Request :=
  match type.toNat, fields with
  | 1, [m, a, b] => some (.setup m a b)
  | 2, [t, c, r, x, y] => some (.submit t c r (word16 x y))
  | 3, [t] => some (.cancel t)
  | 4, [h, o] => some (.done h o)
  | 5, [g] => some (.rate g)
  | 6, [] => some .hold
  | 7, [] => some .resume
  | 8, [t, p] => some (.query t p)
  | 9, [] => some .leave
  | 10, [] => some .rejoin
  | _, _ => none

/-- The form checks of R171 on the complete bytes that followed the PUT code: enough bytes for the declared
length, a length of 1 or more, one of the ten types, and the type's own length. Bytes beyond the declared
length are ignored. -/
def Request.ofPut (bytes : List Byte) : Option Request :=
  match bytes with
  | [] => none
  | len :: rest =>
    if len.toNat ≤ rest.length then
      match rest.take len.toNat with
      | [] => none
      | type :: fields => Request.ofFields type fields
    else none

/-- The opcode table gives no row any bits, so no word spells a command. -/
def decodeTableWord (_nbits _w : Nat) : Option Instr := none

end Sys2Proof
end

