-- ==== Sys2Proof/Machine/State.lean ====
section
/-! DEFINITION. The state of the part: one structure per block of the manual, the queue of waiting commands,
the reasons a step could stop, and the states that the two resets leave. -/

namespace Sys2Proof.Machine

/-- No command of the manual stops the part, so there is no fault reason (log 32). -/
inductive Fault where
deriving DecidableEq, Repr

/-- Why a step could have no meaning. -/
inductive Refusal where
  /-- Raised by an arm of exec whose command has no meaning yet; safe. No arm of this model raises it. -/
  | notModelled (mnemonic : String)
deriving DecidableEq, Repr

/-- Which reset was taken last (R184). -/
inductive ResetKind where
  | powerOn
  | line
deriving DecidableEq, Repr

/-! ### Holding table (chapters 1, 3 and 7) -/

/-- What a claim or a holding is for: a region and a row group, both 0 for a CAL, the row group 0 for an
SCB and an INI (R1, R186). -/
structure Target where
  region : RegionNo
  group : BitVec 3
deriving DecidableEq, Repr

/-- The outcome a controller reports with DONE (R64). -/
inductive DoneOutcome where
  | ok
  | fail
  | aborted
deriving DecidableEq, Repr

/-- The outcome a RELEASE carries (R30). -/
inductive RelOutcome where
  | ok
  | fail
  | cancelled
  | forced
deriving DecidableEq, Repr

/-- The local record of an own holding (R9, R48). `leaseEnds` is the end of the running lease timer, absent
once it is stopped or where it was never started. -/
structure OwnPart where
  goSent : Bool
  leaseEnds : Option Time
  period : Nat
  done : Option DoneOutcome
  tag : Option Byte
deriving DecidableEq, Repr

/-- Whose holding a record describes: a peer's, with basis time and expiry, or an own one with its local
record in their place (R1). The basis may lie before the local time's origin (R20). -/
inductive Holder where
  | peer (basis : Int) (expiry : Time)
  | own (part : OwnPart)
deriving DecidableEq, Repr

/-- A record of the holdings list (R1). Its units are always the cost of its class (R7). -/
structure Holding where
  station : Station
  handle : Byte
  cls : Cls
  target : Target
  extensions : Byte
  holder : Holder
deriving DecidableEq, Repr

/-- A holding's state after delivery (R48). -/
inductive HoldState where
  | running
  | overrun
  | releasing
  | cancelling
  | forcing
deriving DecidableEq, Repr

/-- The holding table: the board view (R1 to R6) and what it keeps beside it (R9, R147). -/
structure Ht where
  holdings : List Holding
  surge : List Time
  pleas : BitVec 16
  calQueue : List (Station × Word16)
  nextTicket : Word16
  forced : List (Byte × Option Byte)
  handleCtr : Byte
  contests : Nat
  headTimer : Option Time
deriving DecidableEq, Repr

/-! ### Bus interface unit (chapter 2) -/

/-- What the station drives on the line after the last event of the bus: nothing; the bytes of a frame whose attempt is
under way (R29, R185); the 8 dominant bits of an abort (R33); its acknowledgement, as the two bytes of the field with
its own slot dominant (R35, R185). -/
inductive LineAct where
  | silent
  | sending (bytes : List Byte)
  | abort
  | ack (bytes : List Byte)
deriving DecidableEq, Repr

/-- Which frame of the outbox is meant (R42). -/
inductive SlotRef where
  | release (handle : Byte)
  | extend (handle : Byte)
  | claim
  | plea
  | intent
  | summary
  | holding (handle : Byte)
  | resync
  | beacon
  | joinLeave
deriving DecidableEq, Repr

/-- The frame in hand: the one frame that is in transmission or committed (R39, R40, R42). `sends` counts
completed sends, so the frame is committed from 1 on; `sending` says that an attempt is under way; `fresh` is the flag
its last attempt carried, set until a send has completed and clear in every repeat (R40, R53). -/
structure InHand where
  ref : SlotRef
  body : Body
  seq : Byte
  patience : BitVec 3
  fresh : Bool
  sending : Bool
  sends : Nat
  acked : BitVec 16
  delivered : Bool
deriving DecidableEq, Repr

/-- A frame in its slot; `seq` is the sequence number it has taken, if any (R29). -/
structure OutFrame (α : Type) where
  body : α
  seq : Option Byte
deriving DecidableEq, Repr

/-- A slot for one frame, with the successor held beside it (R43). -/
structure Slot (α : Type) where
  content : Option (OutFrame α)
  next : Option α
deriving DecidableEq, Repr

/-- What the PLEA/CLEAR slot holds. -/
inductive PleaKind where
  | plea
  | clear
deriving DecidableEq, Repr

/-- The action of an INTENT (R141). -/
inductive IntentAction where
  | enqueue
  | withdraw
  | requeue
deriving DecidableEq, Repr

/-- What the JOIN/LEAVE slot holds. -/
inductive JoinKind where
  | join
  | leave
deriving DecidableEq, Repr

/-- A RELEASE in its slot (R67). -/
structure RelFrame where
  handle : Byte
  outcome : RelOutcome
  seq : Option Byte
deriving DecidableEq, Repr

/-- The EXTEND slot of one own holding (R62): handle, and a slot of extension numbers. -/
structure ExtFrame where
  handle : Byte
  slot : Slot Byte
deriving DecidableEq, Repr

/-- The staged claim record in the CLAIM slot (R49). `urgent` is the kind set at its last test.
`unstageDue` holds an unstaging, by HOLD or by an entry into URGENT, that waits for the attempt under way to end (R44,
R161, log 12). -/
structure Claim where
  handle : Byte
  cls : Cls
  target : Target
  tag : Option Byte
  cancel : Bool
  urgent : Bool
  unstageDue : Bool
  seq : Option Byte
deriving DecidableEq, Repr

/-- An answer group: its SUMMARY, with the sequence number taken, until that has left the slot, and its
HOLDING frames, by handle (R88). -/
structure AnswerGroup where
  summary : Option (Option Byte)
  holdings : List (OutFrame Byte)
deriving DecidableEq, Repr

/-- The ANSWER slot: the group and the newer group that follows a frame still in hand (R43). -/
structure AnswerSlot where
  group : AnswerGroup
  next : Option AnswerGroup
deriving DecidableEq, Repr

/-- The outbox (R42). -/
structure Outbox where
  release : List RelFrame
  extend : List ExtFrame
  claim : Option Claim
  plea : Slot PleaKind
  intent : Slot IntentAction
  answer : AnswerSlot
  resync : Slot Unit
  beacon : Slot Unit
  joinLeave : Slot JoinKind
deriving DecidableEq, Repr

/-- The bus interface unit (R28 to R47). -/
structure Biu where
  line : LineAct
  busFree : Bool
  outbox : Outbox
  inHand : Option InHand
  seqCtr : Byte
  losses : Nat
  consecErrors : Nat
  totalErrors : Nat
  undelivered : Nat
  rxDiscards : Nat
deriving DecidableEq, Repr

/-! ### Presence controller (chapter 4) -/

/-- The nine presence states (R79). -/
inductive Presence where
  | offline
  | listening
  | joining
  | syncing
  | member
  | leaving
  | detached
  | linkFault
  | configFault
deriving DecidableEq, Repr

/-- Why the station is SYNCING (R79). -/
inductive SyncCause where
  | join
  | resync
deriving DecidableEq, Repr

/-- Why the station is in CONFIG_FAULT (R101). -/
inductive CfgCause where
  | duplicateStation
  | versionMismatch
  | budgetMismatch
deriving DecidableEq, Repr

/-- Why the station entered LINK_FAULT (R180). -/
inductive LinkCause where
  | undelivered
  | busErrors
deriving DecidableEq, Repr

/-- The state field of a roster record (R81). -/
inductive PeerState where
  | absent
  | member
  | silent
deriving DecidableEq, Repr

/-- A roster record but for its answer tally (R81). -/
structure RosterRec where
  state : PeerState
  lastHeard : Option Time
  lastApplied : Option Byte
  mismatch : Nat
  contests : Nat
  softContests : Nat
  forcedSeen : Nat
deriving DecidableEq, Repr

/-- The answer tally of a roster record during a collect window (R81). -/
structure Tally where
  summarySeen : Bool
  announced : Nat
  counted : Nat
  excluded : Bool
deriving DecidableEq, Repr

/-- An open collect window: the end of its timer and the sixteen tallies (R86, R91). -/
structure Window where
  ends : Time
  tallies : Vector Tally 16
deriving DecidableEq, Repr

/-- The presence controller (R79 to R103). -/
structure Pc where
  presence : Presence
  station : Station
  budget : BitVec 2
  syncCause : Option SyncCause
  cfgCause : Option CfgCause
  readyGiven : Bool
  roster : Vector RosterRec 16
  listenEnds : Option Time
  window : Option Window
  beaconEnds : Option Time
  resyncs : Nat
deriving DecidableEq, Repr

/-! ### Retention scheduler (chapters 5 and 6) -/

/-- A region's accrual timer: running to its end, or stopped with the time it kept (R106, R119). -/
inductive AccrualTimer where
  | running (ends : Time)
  | stopped (left : Time)
deriving DecidableEq, Repr

/-- A region record (R104); `exempt` is its mode. -/
structure Region where
  exempt : Bool
  debt : Int
  pointer : BitVec 3
  lapses : Nat
  timer : AccrualTimer
  stagedRfb : Bool
deriving DecidableEq, Repr

/-- The rate grade (R112). -/
inductive Grade where
  | one
  | two
deriving DecidableEq, Repr

/-- The urgency state (R128). -/
inductive Urgency where
  | normal
  | urgent
deriving DecidableEq, Repr

/-- The plea mark (R129). -/
inductive PleaMark where
  | none
  | plea
  | clear
deriving DecidableEq, Repr

/-- The retention scheduler (R104, R129). -/
structure Rs where
  regions : Vector Region 4
  grade : Grade
  hold : Bool
  startLevel : Nat
  endLevel : Nat
  urgency : Urgency
  pleaMark : PleaMark
deriving DecidableEq, Repr

/-! ### Operation queue and selector (chapter 8) -/

/-- An entry of the local operation queue (R153); `staged` is its state. -/
structure Entry where
  tag : Byte
  cls : Cls
  region : Option RegionNo
  deadline : Option Time
  overdue : Bool
  bypass : Nat
  staged : Bool
  intent : Bool
deriving DecidableEq, Repr

/-- The operation queue and selector (R153, R157). `selectDue` is the model's own mark: an event of R157 took
place inside the step, so a selection is made at the step's end (log 11). -/
structure Oqs where
  queue : List Entry
  selTimer : Option Time
  selectDue : Bool
deriving DecidableEq, Repr

/-! ### Port unit (chapter 9) -/

/-- The type of a refused request (R176). -/
inductive ReqType where
  | setup
  | submit
  | cancel
  | done
  | rate
  | hold
  | resume
  | query
  | leave
  | rejoin
deriving DecidableEq, Repr

/-- The reasons of R176. -/
inductive Reason where
  | full
  | duplicateTag
  | badField
  | exemptRegion
  | held
  | notHeld
  | locked
  | faulted
  | unknown
  | running
  | busy
deriving DecidableEq, Repr

/-- The causes of an ALERT with their details (R180). `tagOrRegion` is the tag, or the region for an RFB. -/
inductive Alert where
  | lapse (region : RegionNo) (count : Nat)
  | overrun (handle number tagOrRegion : Byte)
  | forced (handle tagOrRegion : Byte)
  | contest (station : Station)
  | configFault (cause : CfgCause)
  | linkFault (cause : LinkCause)
deriving DecidableEq, Repr

/-- The eleven kinds of notice (R179). -/
inductive Notice where
  | reset (kind : ResetKind)
  | ready (station : Station) (budget : Nat)
  | state (presence : Presence)
  | accept (tag : Byte)
  | refuse (request : ReqType) (key : Option Byte) (reason : Reason)
  | go (handle : Byte) (cls : Cls) (tag : Option Byte) (target : Target) (lease : Nat)
  | expired (tag : Byte)
  | cancelled (tag : Byte)
  | late (handle : Byte) (tag : Option Byte) (outcome : DoneOutcome)
  | alert (alert : Alert)
  | reply (topic part : Byte) (content : List Byte)
deriving DecidableEq, Repr

/-- What SDO carried while CS_N was last low: high-impedance, where no transfer was taken, or the bytes shifted out
after the code, every byte beyond them 00h. Between transfers CS_N is high and SDO high-impedance (R170, log 22). -/
inductive SdoOut where
  | highZ
  | shifted (bytes : List Byte)
deriving DecidableEq, Repr

/-- The port unit (R170 to R184). `csLow` says that CS_N has been low since before reset was released: the transfer
under way is ignored to its end (R170). `takeLeft` is 0, or a TAKE has clocked the head notice out whole with CS_N still
low, and so many further notices are judged before CS_N rises (R172, R178, log 39). -/
structure Pu where
  notices : List Notice
  takeLeft : Nat
  goReserved : Bool
  lost : Nat
  malformed : Nat
  portError : Bool
  setupLock : Bool
  csLow : Bool
  sdo : SdoOut
deriving DecidableEq, Repr

/-! ### The whole part -/

/-- Everything the part holds. -/
structure Dev where
  now : Time
  resetKind : ResetKind
  biu : Biu
  ht : Ht
  pc : Pc
  rs : Rs
  oqs : Oqs
  pu : Pu
deriving DecidableEq, Repr

/-- The part and the commands that wait for it, the first one at the front. -/
structure State where
  dev : Dev
  pending : List Instr
deriving DecidableEq, Repr

/-! ### Reset -/

/-- An empty slot. -/
def Slot.empty {α : Type} : Slot α := { content := none, next := none }

/-- An answer group with nothing in it. -/
def AnswerGroup.empty : AnswerGroup := { summary := none, holdings := [] }

/-- The empty outbox (R47). -/
def Outbox.empty : Outbox :=
  { release := [], extend := [], claim := none, plea := Slot.empty, intent := Slot.empty,
    answer := { group := AnswerGroup.empty, next := none }, resync := Slot.empty, beacon := Slot.empty,
    joinLeave := Slot.empty }

/-- A roster record after reset (R103). -/
def RosterRec.fresh : RosterRec :=
  { state := .absent, lastHeard := none, lastApplied := none, mismatch := 0, contests := 0,
    softContests := 0, forcedSeen := 0 }

/-- The debt each reset gives every region (R127). -/
def resetDebt : ResetKind → Int
  | .powerOn => 0
  | .line => 5

/-- A region record while reset is held (R127); its timer does not run then. -/
def Region.fresh (k : ResetKind) : Region :=
  { exempt := false, debt := resetDebt k, pointer := 0, lapses := 0, timer := .stopped 0, stagedRfb := false }

/-- The part while a reset holds it in OFFLINE: every block in the state of R9, R47, R103, R127, R138, R152,
R169 and R184. -/
def Dev.held (k : ResetKind) : Dev :=
  { now := 0, resetKind := k,
    biu := { line := .silent, busFree := false, outbox := Outbox.empty, inHand := none, seqCtr := 0, losses := 0,
             consecErrors := 0, totalErrors := 0, undelivered := 0, rxDiscards := 0 },
    ht := { holdings := [], surge := [], pleas := 0, calQueue := [], nextTicket := 0, forced := [],
            handleCtr := 0, contests := 0, headTimer := none },
    pc := { presence := .offline, station := 0, budget := 0, syncCause := none, cfgCause := none,
            readyGiven := false, roster := Vector.replicate 16 RosterRec.fresh, listenEnds := none,
            window := none, beaconEnds := none, resyncs := 0 },
    rs := { regions := Vector.replicate 4 (Region.fresh k), grade := .one, hold := false, startLevel := 5,
            endLevel := 2, urgency := match k with | .powerOn => .normal | .line => .urgent,
            pleaMark := .none },
    oqs := { queue := [], selTimer := none, selectDue := false },
    pu := { notices := [], takeLeft := 0, goReserved := false, lost := 0, malformed := 0, portError := false,
            setupLock := false, csLow := false, sdo := .highZ } }

/-- Right after power-on reset: the part is held in OFFLINE and no command waits (R103, log 6). -/
def State.reset : State := { dev := Dev.held .powerOn, pending := [] }

end Sys2Proof.Machine
end

