-- ==== Sys2Proof/Machine/Operands.lean ====
section
/-! DEFINITION. The fixed times of the manual and the encodings of everything a peer or the controller sees:
frame headers and payloads, notices, codes, and the 16-bit digest CRC (R7, R25, R29, R30, R185 to R190). -/

namespace Sys2Proof.Machine

/-! ### Times -/

/-- Microseconds as local time (R27: a bit is 0.25 µs). -/
def us (n : Nat) : Time := 4 * n

/-- A length of time in units of 100 µs, rounded up (R189). -/
def ticks (t : Time) : Nat := (t + 399) / 400

/-- The listen window (R84). -/
def listenTime : Time := us 6000
/-- The collect window (R86, R94). -/
def collectTime : Time := us 4000
/-- The beacon interval (R92). -/
def beaconTime : Time := us 2000
/-- How long an unheard MEMBER record stands (R83). -/
def silenceTime : Time := us 6000
/-- The age at which a surge entry leaves (R3). -/
def surgeTime : Time := us 1000
/-- The grace a peer adds to the owner's lease (R15, R20). -/
def graceTime : Time := us 2000
/-- The head timer (R147). -/
def headTime : Time := us 20000
/-- The selection timer (R157). -/
def selectTime : Time := us 100

/-- The lease limit of a class in microseconds (R7). -/
def leaseMicros : Cls → Nat
  | .rfb => 200
  | .cal => 1000
  | .scb => 2000
  | .ini => 20000

/-- The lease limit of a class as local time (R7). -/
def leaseTime (c : Cls) : Time := us (leaseMicros c)

/-- The accrual interval of a rate grade (R112). -/
def Grade.interval : Grade → Time
  | .one => us 8000
  | .two => us 4000

/-- When region `r`'s accrual timer first ends after the release of reset (R106). -/
def staggered (r : Nat) : Time := (r + 1) * Grade.interval .one / 4

/-! ### Small encodings -/

/-- The board budget of a budget code (R8, R190). -/
def budgetUnits (code : BitVec 2) : Nat :=
  match code.toNat with
  | 0 => 16
  | 1 => 24
  | 2 => 32
  | _ => 48

/-- The high byte of a 16-bit value. -/
def hi8 (w : Word16) : Byte := w.extractLsb' 8 8
/-- The low byte of a 16-bit value. -/
def lo8 (w : Word16) : Byte := w.extractLsb' 0 8
/-- A 16-bit value as two bytes, most significant first (chapter 11). -/
def be16 (w : Word16) : List Byte := [hi8 w, lo8 w]
/-- A count as two bytes (R189). -/
def nat16 (n : Nat) : List Byte := be16 (BitVec.ofNat 16 n)
/-- A count as one byte (R189). -/
def nat8 (n : Nat) : Byte := BitVec.ofNat 8 n
/-- A flag at bit `i` of a flags byte. -/
def bitAt (i : Nat) (b : Bool) : Byte := if b then 1#8 <<< i else 0#8

/-- The target byte: bits 5 and 4 the region, bits 2 to 0 the row group, others 0 (R186). -/
def Target.byte (t : Target) : Byte := (t.region.setWidth 8 <<< 4) ||| t.group.setWidth 8

/-- A received target byte; its bits marked 0 are not read (R186, log 18). -/
def Target.ofByte (b : Byte) : Target := { region := b.extractLsb' 4 2, group := b.extractLsb' 0 3 }

/-- The code of a RELEASE outcome (R186). -/
def RelOutcome.code : RelOutcome → Byte
  | .ok => 0
  | .fail => 1
  | .cancelled => 2
  | .forced => 3

/-- A received outcome; 4 to 255 counts as FAIL (R186). -/
def RelOutcome.ofCode (b : Byte) : RelOutcome :=
  match b.toNat with
  | 0 => .ok
  | 1 => .fail
  | 2 => .cancelled
  | 3 => .forced
  | _ => .fail

/-- The outcome of a DONE request, if its code is one of the three (R64, R187). -/
def DoneOutcome.ofCode (b : Byte) : Option DoneOutcome :=
  match b.toNat with
  | 0 => some .ok
  | 1 => some .fail
  | 2 => some .aborted
  | _ => none

/-- The code of a DONE outcome (R187). -/
def DoneOutcome.code : DoneOutcome → Byte
  | .ok => 0
  | .fail => 1
  | .aborted => 2

/-- The outcome a RELEASE carries for a reported DONE: ABORTED is sent as FAIL (R65). -/
def DoneOutcome.toRelease : DoneOutcome → RelOutcome
  | .ok => .ok
  | .fail => .fail
  | .aborted => .fail

/-- The code of an INTENT action (R186). -/
def IntentAction.code : IntentAction → Byte
  | .enqueue => 0
  | .withdraw => 1
  | .requeue => 2

/-- A received INTENT action; 3 to 255 names none (R186). -/
def IntentAction.ofCode (b : Byte) : Option IntentAction :=
  match b.toNat with
  | 0 => some .enqueue
  | 1 => some .withdraw
  | 2 => some .requeue
  | _ => none

/-- Presence state codes (R188). -/
def Presence.code : Presence → Byte
  | .offline => 0
  | .listening => 1
  | .joining => 2
  | .syncing => 3
  | .member => 4
  | .leaving => 5
  | .detached => 6
  | .linkFault => 7
  | .configFault => 8

/-- Configuration-fault cause codes (R188). -/
def CfgCause.code : CfgCause → Byte
  | .duplicateStation => 0
  | .versionMismatch => 1
  | .budgetMismatch => 2

/-- Request type codes (R187). -/
def ReqType.code : ReqType → Byte
  | .setup => 1
  | .submit => 2
  | .cancel => 3
  | .done => 4
  | .rate => 5
  | .hold => 6
  | .resume => 7
  | .query => 8
  | .leave => 9
  | .rejoin => 10

/-- Reason codes, 01h to 0Bh in the order of R176 (R188). -/
def Reason.code : Reason → Byte
  | .full => 1
  | .duplicateTag => 2
  | .badField => 3
  | .exemptRegion => 4
  | .held => 5
  | .notHeld => 6
  | .locked => 7
  | .faulted => 8
  | .unknown => 9
  | .running => 10
  | .busy => 11

/-- Holding state codes of TABLE part 1 (R189). -/
def HoldState.code : HoldState → Byte
  | .running => 0
  | .overrun => 1
  | .releasing => 2
  | .cancelling => 3
  | .forcing => 4

/-! ### Frames -/

/-- The kind code of a frame (R30). -/
def kindOf : Body → BitVec 4
  | .release _ _ => 0
  | .extend _ _ => 1
  | .claim true _ _ _ _ => 2
  | .plea => 3
  | .clear => 4
  | .claim false _ _ _ _ => 5
  | .intent _ _ => 6
  | .holding _ _ _ _ _ _ => 7
  | .summary _ _ _ => 8
  | .resync => 9
  | .beacon _ _ => 10
  | .join _ _ => 11
  | .leave => 12

/-- The payload bytes of a frame (R186). -/
def payloadOf : Body → List Byte
  | .release h o => [h, o]
  | .extend h n => [h, n]
  | .claim _ h c u t => [h, c, u, t]
  | .plea => []
  | .clear => []
  | .intent a t => a :: be16 t
  | .holding h c u t e r => [h, c, u, t, e, r]
  | .summary f t n => f :: (be16 t ++ be16 n)
  | .resync => []
  | .beacon d f => be16 d ++ [f]
  | .join b v => [b, v]
  | .leave => []

/-- The header of a frame (R185). -/
def headerBytes (kind : BitVec 4) (patience : BitVec 3) (fresh : Bool) (st : Station) (len : Nat) (seq : Byte) :
    List Byte :=
  [(kind.setWidth 8 <<< 4) ||| (patience.setWidth 8 <<< 1) ||| bitAt 0 fresh,
   (st.setWidth 8 <<< 4) ||| (BitVec.ofNat 4 len).setWidth 8, seq]

/-- The bytes of a frame as its sender builds it: header, payload and CRC (R29, R185, R186). -/
def frameBytes (patience : BitVec 3) (fresh : Bool) (st : Station) (seq : Byte) (b : Body) : List Byte :=
  let front := headerBytes (kindOf b) patience fresh st (payloadOf b).length seq ++ payloadOf b
  front ++ [crc8 front]

/-- The two acknowledgement bytes with these stations' slots dominant: a dominant slot is a 0, and the lowest station's
slot is bit 7 of its byte (R29, R185). -/
def slotBytes (m : BitVec 16) : List Byte := [(~~~(m.extractLsb' 0 8)).reverse, (~~~(m.extractLsb' 8 8)).reverse]

/-- The stations whose slots the two acknowledgement bytes show dominant (R185). -/
def ackSlots (byte1 byte2 : Byte) : BitVec 16 := ~~~(byte2.reverse ++ byte1.reverse)

/-- A frame as its sender drives it: the frame, and the acknowledgement bytes with every slot recessive (R29, R185). -/
def drivenBytes (patience : BitVec 3) (fresh : Bool) (st : Station) (seq : Byte) (b : Body) : List Byte :=
  frameBytes patience fresh st seq b ++ slotBytes 0

/-- The patience of a station with this many arbitration losses (R32). -/
def patienceOf (losses : Nat) : BitVec 3 := BitVec.ofNat 3 (7 - min 7 losses)

/-- The content of a CLAIM frame: 00h for the target of a CAL (R30, R186). -/
def Claim.body (c : Claim) : Body :=
  .claim c.urgent c.handle c.cls.code (nat8 c.cls.units) c.target.byte

/-- SUMMARY flags: bit 7 plea, bit 6 calibration entry, bits 5 and 4 holdings count, bits 1 and 0 budget code
(R186). -/
def summaryFlags (plea cal : Bool) (count : Nat) (budget : BitVec 2) : Byte :=
  bitAt 7 plea ||| bitAt 6 cal ||| ((BitVec.ofNat 2 count).setWidth 8 <<< 4) ||| budget.setWidth 8

/-- BEACON flags: bit 7 syncing, bits 1 and 0 budget code (R186). -/
def beaconFlags (syncing : Bool) (budget : BitVec 2) : Byte := bitAt 7 syncing ||| budget.setWidth 8

/-- The budget code of a flags or budget byte: bits 1 and 0 (R186). -/
def budgetBits (b : Byte) : BitVec 2 := b.extractLsb' 0 2

/-! ### The digest CRC -/

/-- One data bit into the digest register, polynomial 1021h (R25). -/
def crc16Bit (r : Word16) (b : Bool) : Word16 :=
  if r.msb != b then (r <<< 1) ^^^ 0x1021#16 else r <<< 1

/-- The digest CRC: initial value FFFFh, most significant bit first, no inversion (R25). -/
def crc16 (bs : List Byte) : Word16 := (bs.flatMap byteBits).foldl crc16Bit 0xFFFF#16

/-! ### Notices -/

/-- The byte that stands for an item that may be absent (R188, R189). -/
def orZero (b : Option Byte) : Byte := b.getD 0

/-- ALERT cause and its three detail bytes (R188). -/
def Alert.bytes : Alert → List Byte
  | .lapse r n => 0 :: r.setWidth 8 :: nat16 n
  | .overrun h n x => [1, h, n, x]
  | .forced h x => [2, h, x, 0]
  | .contest s => [3, s.setWidth 8, 0, 0]
  | .configFault c => [4, c.code, 0, 0]
  | .linkFault .undelivered => [5, 0, 0, 0]
  | .linkFault .busErrors => [5, 1, 0, 0]

/-- The type byte and the fields of a notice (R188). -/
def Notice.fields : Notice → List Byte
  | .reset .powerOn => [0x41, 0]
  | .reset .line => [0x41, 1]
  | .ready s b => [0x42, s.setWidth 8, nat8 b]
  | .state p => [0x43, p.code]
  | .accept t => [0x44, t]
  | .refuse q k r => [0x45, q.code, orZero k, r.code]
  | .go h c tag tgt lease =>
    0x46 :: h :: c.code :: (if c = .rfb then tgt.byte else orZero tag) :: nat16 lease
  | .expired t => [0x47, t]
  | .cancelled t => [0x48, t]
  | .late h tag o => [0x49, h, bitAt 0 tag.isSome, orZero tag, o.code]
  | .alert a => 0x4A :: a.bytes
  | .reply topic part content => 0x4B :: topic :: part :: content

/-- A notice as TAKE shifts it out: its length byte, then its type and fields (R172, R188). -/
def Notice.bytes (n : Notice) : List Byte := nat8 n.fields.length :: n.fields

/-! ### Lists of everything -/

/-- The sixteen station numbers in ascending order. -/
def stations : List Station := [0, 1, 2, 3, 4, 5, 6, 7, 8, 9, 10, 11, 12, 13, 14, 15]

/-- The four regions in ascending order. -/
def regionNos : List RegionNo := [0, 1, 2, 3]

end Sys2Proof.Machine
end

