-- ==== Sys2Proof/Machine/Flags.lean ====
section
/-! DEFINITION. What the blocks read of each other's state: held and free units, holding states, the roster as
delivery sees it, the admission conditions A1 to A8, refresh demand, urgency, and the digest. -/

namespace Sys2Proof.Machine

/-! ### Holdings (R1, R2, R8, R48, R72) -/

/-- The local record of an own holding. -/
def Holding.part (h : Holding) : Option OwnPart :=
  match h.holder with
  | .own p => some p
  | .peer _ _ => none

/-- Whether a record describes an own holding. -/
def Holding.isOwn (h : Holding) : Bool := h.part.isSome

/-- The expiry of a peer record. -/
def Holding.expiry (h : Holding) : Option Time :=
  match h.holder with
  | .own _ => none
  | .peer _ e => some e

/-- The key (station, handle) of a record as one number, in the canonical order of R2. -/
def Holding.key (h : Holding) : Nat := h.station.toNat * 256 + h.handle.toNat

/-- The state of an own holding, read from its local record (R48). -/
def OwnPart.state (p : OwnPart) : HoldState :=
  if !p.goSent then .cancelling
  else if p.done.isSome then .releasing
  else if p.leaseEnds.isNone then .forcing
  else if p.period = 1 then .running
  else .overrun

/-- RUNNING or OVERRUN: the states that await the controller's DONE. -/
def OwnPart.awaitsDone (p : OwnPart) : Bool := p.state == .running || p.state == .overrun

/-- The units held by the board: the sum over all records (R2). -/
def heldUnits (hs : List Holding) : Nat := (hs.map (fun h => h.cls.units)).sum

/-- The number of CAL records (R22). -/
def calRecords (hs : List Holding) : Nat := (hs.filter (fun h => h.cls == .cal)).length

/-- The board budget B (R8). -/
def Dev.units (d : Dev) : Nat := budgetUnits d.pc.budget

/-- Free units, a signed quantity (R8). -/
def Dev.free (d : Dev) : Int := (d.units : Int) - (heldUnits d.ht.holdings : Int)

/-- The quarantine flag: set while the forced list is not empty (R9, R72). -/
def Dev.quarantined (d : Dev) : Bool := !d.ht.forced.isEmpty

/-- The own holdings, in ascending handle order. -/
def Dev.ownHoldings (d : Dev) : List Holding := d.ht.holdings.filter (fun h => h.isOwn)

/-- The own holding under a handle. -/
def Dev.ownHolding? (d : Dev) (h : Byte) : Option Holding := d.ownHoldings.find? (fun x => x.handle == h)

/-- Whether the own holding under a handle is RUNNING or OVERRUN. -/
def Dev.awaitsDone (d : Dev) (h : Byte) : Bool :=
  match d.ownHolding? h with
  | some x => (x.part.map OwnPart.awaitsDone).getD false
  | none => false

/-- An own RFB holding for a region, in any holding state (R115). -/
def Dev.ownRfb? (d : Dev) (r : RegionNo) : Option Holding :=
  d.ownHoldings.find? (fun h => h.cls == .rfb && h.target.region == r)

/-- ATTN_N is low while a notice waits (R174). -/
def Dev.attnLow (d : Dev) : Bool := !d.pu.notices.isEmpty

/-! ### Presence (R36, R79) -/

/-- States in which the BIU serves the whole outbox; DETACHED serves the LEAVE alone (R79). -/
def Presence.serves : Presence → Bool
  | .joining | .syncing | .member | .leaving | .linkFault => true
  | .offline | .listening | .detached | .configFault => false

/-- States in which received frames are applied to the board view (R79). -/
def Presence.keepsView : Presence → Bool
  | .syncing | .member | .leaving | .linkFault => true
  | .offline | .listening | .joining | .detached | .configFault => false

/-- States in which frames update the roster and silence is timed (R79, R83). -/
def Presence.keepsRoster : Presence → Bool
  | .offline | .configFault => false
  | .listening | .joining | .syncing | .member | .leaving | .linkFault | .detached => true

/-- States that a report of the BIU turns into LINK_FAULT (R99). -/
def Presence.mayLinkFault : Presence → Bool
  | .joining | .syncing | .member | .leaving => true
  | .offline | .listening | .detached | .linkFault | .configFault => false

/-- Whether the station places an answer group now (R79, R87, R95). -/
def Dev.answers (d : Dev) : Bool :=
  match d.pc.presence with
  | .member | .leaving | .linkFault => true
  | .syncing => d.pc.syncCause == some .resync
  | .offline | .listening | .joining | .detached | .configFault => false

/-! ### Roster (R39, R81) -/

/-- The stored roster record of a station. -/
def Pc.rosterAt (p : Pc) (s : Station) : RosterRec := p.roster[s.toNat]'s.isLt

/-- Whether another station is MEMBER in the roster; the own record is not read (R39, R81). -/
def Pc.isMember (p : Pc) (s : Station) : Bool := s != p.station && (p.rosterAt s).state == .member

/-- Whether a set of stations, one bit each, holds a station. -/
def inMask (m : BitVec 16) (s : Station) : Bool := m.getLsbD s.toNat

/-- The set with one station. -/
def maskBit (s : Station) : BitVec 16 := 1#16 <<< s.toNat

/-- The other members as a set. -/
def Pc.memberMask (p : Pc) : BitVec 16 :=
  stations.foldl (fun m s => if p.isMember s then m ||| maskBit s else m) 0#16

/-- The own record as it shows: MEMBER while the presence state is MEMBER, else ABSENT (R81). -/
def Pc.shownState (p : Pc) (s : Station) : PeerState :=
  if s = p.station then (if p.presence = .member then .member else .absent) else (p.rosterAt s).state

/-- The answer tally of a station in an open window. -/
def Window.tallyAt (w : Window) (s : Station) : Tally := w.tallies[s.toNat]'s.isLt

/-- The answers are complete: every other MEMBER record that is not excluded shows its SUMMARY and as many
HOLDING frames as were announced (R91). -/
def Dev.answersComplete (d : Dev) (w : Window) : Bool :=
  stations.all fun s =>
    !d.pc.isMember s || (w.tallyAt s).excluded ||
      ((w.tallyAt s).summarySeen && (w.tallyAt s).counted == (w.tallyAt s).announced)

/-! ### Outbox (R42, R48) -/

/-- Whether the frame in hand is the one of this slot. -/
def Biu.inHandIs (b : Biu) (r : SlotRef) : Bool :=
  match b.inHand with
  | some f => f.ref == r
  | none => false

/-- Whether an attempt is under way. -/
def Biu.attempting (b : Biu) : Bool :=
  match b.inHand with
  | some f => f.sending
  | none => false

/-- The claim in the CLAIM slot if it is STAGED: waiting (R48). -/
def Biu.stagedClaim (b : Biu) : Option Claim := if b.inHandIs .claim then none else b.outbox.claim

/-- Whether the claim is SENDING: in transmission, or committed and not yet delivered (R48). -/
def Biu.claimSending (b : Biu) : Bool :=
  match b.inHand with
  | some f => f.ref == .claim && !f.delivered
  | none => false

/-- The claim in the CLAIM slot while it is not yet delivered, STAGED or SENDING. -/
def Biu.openClaim (b : Biu) : Option Claim :=
  if b.inHandIs .claim && !b.claimSending then none else b.outbox.claim

/-- No own holding is RUNNING or OVERRUN and no claim is SENDING (R76). -/
def Dev.settled (d : Dev) : Bool :=
  d.ownHoldings.all (fun h => !(h.part.map OwnPart.awaitsDone).getD false) && !d.biu.claimSending

/-- No own holding, RELEASE or claim remains (R75). -/
def Dev.drained (d : Dev) : Bool :=
  d.ownHoldings.isEmpty && d.biu.outbox.release.isEmpty && d.biu.outbox.claim.isNone

/-! ### Pleas and the calibration queue (R4, R5, R13, R146) -/

/-- Whether the plea set holds a station other than `s`. -/
def otherPlea (m : BitVec 16) (s : Station) : Bool := m &&& ~~~(maskBit s) != 0#16

/-- Whether a station has an entry in the calibration queue. -/
def Ht.calEntry? (t : Ht) (s : Station) : Option Word16 :=
  (t.calQueue.find? (fun e => e.1 == s)).map (fun e => e.2)

/-- Whether the own entry is the head of the own queue (R146). -/
def Dev.isHead (d : Dev) : Bool := (d.ht.calQueue.head?.map (fun e => e.1)) == some d.pc.station

/-- The distance of a ticket behind next-ticket, modulo 65,536 (R5). -/
def ticketDistance (next ticket : Word16) : Nat := (next - ticket).toNat

/-! ### Regions (R104, R128) -/

/-- A region record. -/
def Rs.regionAt (r : Rs) (n : RegionNo) : Region := r.regions[n.toNat]'n.isLt

/-- The greatest debt over the ACTIVE regions, or 0 when none is ACTIVE (R128). -/
def Rs.greatestDebt (r : Rs) : Int :=
  match (regionNos.filter (fun n => !(r.regionAt n).exempt)).map (fun n => (r.regionAt n).debt) with
  | [] => 0
  | x :: xs => xs.foldl max x

/-- The urgency state after an evaluation (R128). -/
def nextUrgency (u : Urgency) (greatest : Int) (start stop : Nat) : Urgency :=
  match u with
  | .normal => if (start : Int) ≤ greatest then .urgent else .normal
  | .urgent => if greatest ≤ (stop : Int) then .normal else .urgent

/-! ### The admission test (R10 to R14) -/

/-- The admission conditions. -/
inductive Cond where
  | a1
  | a2
  | a3
  | a4
  | a5
  | a6
  | a7
  | a8
deriving DecidableEq, Repr

/-- A1: MEMBER and not in quarantine (R11). -/
def Dev.a1 (d : Dev) : Bool := d.pc.presence == .member && !d.quarantined

/-- A2 for the station as a whole: fewer than two own holdings (R11, R157). -/
def Dev.a2Station (d : Dev) : Bool := d.ownHoldings.length < 2

/-- A2 (R11). -/
def Dev.a2 (d : Dev) (c : Cls) (r : RegionNo) : Bool := d.a2Station && !(c == .rfb && (d.ownRfb? r).isSome)

/-- A3: fewer than 12 surge entries (R12). -/
def Dev.a3 (d : Dev) : Bool := d.ht.surge.length < 12

/-- A claim is urgent when it is an RFB and the urgency state is URGENT (R10). -/
def Dev.urgentClaim (d : Dev) (c : Cls) : Bool := c == .rfb && d.rs.urgency == .urgent

/-- A4: the cost against free, with the reserve left free unless the claim is urgent (R12). -/
def Dev.a4 (d : Dev) (c : Cls) : Bool :=
  if d.urgentClaim c then decide ((c.units : Int) ≤ d.free)
  else decide ((c.units : Int) ≤ d.free - Config.reserve)

/-- A5: no other station pleads, or the claim is an RFB whose region owes a burst (R13). -/
def Dev.a5 (d : Dev) (c : Cls) (r : RegionNo) : Bool :=
  !otherPlea d.ht.pleas d.pc.station || (c == .rfb && decide (1 ≤ (d.rs.regionAt r).debt))

/-- A6: a CAL needs a free reference and the own entry at the head (R14). -/
def Dev.a6 (d : Dev) (c : Cls) : Bool := !(c == .cal) || (calRecords d.ht.holdings == 0 && d.isHead)

/-- A7: at least 4 free places in the notice queue, a reserved place counted as free (R14, R59). -/
def Dev.a7 (d : Dev) : Bool := d.pu.notices.length + 4 ≤ Config.noticeCap

/-- A8: the hold flag is clear (R14). -/
def Dev.a8 (d : Dev) : Bool := !d.rs.hold

/-- The admission test of a claim of a class, for an RFB with its region: `none` for a pass, else the first
failing condition (R10). -/
def Dev.firstFail (d : Dev) (c : Cls) (r : RegionNo) : Option Cond :=
  if !d.a1 then some .a1
  else if !d.a2 c r then some .a2
  else if !d.a3 then some .a3
  else if !d.a4 c then some .a4
  else if !d.a5 c r then some .a5
  else if !d.a6 c then some .a6
  else if !d.a7 then some .a7
  else if !d.a8 then some .a8
  else none

/-! ### Refresh demand (R114 to R118) -/

/-- Conditions 1 to 4 of R117. -/
def Dev.pullInOpen (d : Dev) : Bool :=
  d.rs.urgency == .normal && !otherPlea d.ht.pleas d.pc.station && decide (10 ≤ d.free - 3)
    && decide (d.ht.surge.length ≤ 8)

/-- The admission test of the staged claim before an attempt: A1 to A8, and the pull-in conditions for an RFB
whose region's debt is 0 or less (R10, R118). -/
def Dev.stagedPasses (d : Dev) (c : Claim) : Bool :=
  (d.firstFail c.cls c.target.region).isNone &&
    (!(c.cls == .rfb && decide ((d.rs.regionAt c.target.region).debt ≤ 0)) || d.pullInOpen)

/-- A region is eligible for demand: ACTIVE, no own RFB holding, mark clear (R115). -/
def Dev.eligible (d : Dev) (r : RegionNo) : Bool :=
  !(d.rs.regionAt r).exempt && (d.ownRfb? r).isNone && !(d.rs.regionAt r).stagedRfb

/-- The region of greatest debt among those that qualify, the lowest number among equals (R116, R117). -/
def Dev.bestRegion (d : Dev) (p : RegionNo → Bool) : Option RegionNo :=
  regionNos.foldl
    (fun best r =>
      if p r then
        match best with
        | none => some r
        | some b => if (d.rs.regionAt b).debt < (d.rs.regionAt r).debt then some r else some b
      else best)
    none

/-- The normal demand (R114, R116). -/
def Dev.normalDemand (d : Dev) : Option RegionNo :=
  if d.rs.hold then none
  else d.bestRegion (fun r => d.eligible r && decide (1 ≤ (d.rs.regionAt r).debt))

/-- The pull-in demand (R114, R117). -/
def Dev.pullInDemand (d : Dev) : Option RegionNo :=
  if d.rs.hold || !d.pullInOpen then none
  else d.bestRegion (fun r =>
    d.eligible r && decide (-7 ≤ (d.rs.regionAt r).debt) && decide ((d.rs.regionAt r).debt ≤ 0))

/-- The five conditions under which selections are made (R157). -/
def Dev.selectable (d : Dev) : Bool :=
  d.biu.outbox.claim.isNone && d.a1 && d.a2Station && d.a7 && d.a8

/-! ### The digest (R25) -/

/-- The four bytes of a record in the canonical listing. -/
def Holding.listing (h : Holding) : List Byte :=
  [h.station.setWidth 8, h.handle, h.cls.code, nat8 h.cls.units]

/-- The canonical listing of the replica (R25). Its bullets give four bytes a record, two of plea mask and one a queued
station, so R25's worked example lists twelve bytes where its words say ten; the model takes the bullets (log 38). -/
def Ht.listing (t : Ht) : List Byte :=
  t.holdings.flatMap Holding.listing ++ be16 t.pleas ++ t.calQueue.map (fun e => e.1.setWidth 8)

/-- The digest of the replica (R25). -/
def Ht.digest (t : Ht) : Word16 := crc16 t.listing

/-! ### Own frames as they stand (R26, R43, R74, R88, R141) -/

/-- The remaining lease of an own holding in units of 100 µs, rounded up, from 1 to 200 (R74). -/
def Dev.remainingLease (d : Dev) (p : OwnPart) : Nat :=
  match p.leaseEnds with
  | some e => max 1 (ticks (e - d.now))
  | none => 1

/-- The HOLDING frame for an own holding (R74). -/
def Dev.holdingBody (d : Dev) (h : Holding) (p : OwnPart) : Body :=
  .holding h.handle h.cls.code (nat8 h.cls.units) h.target.byte (nat8 (p.period - 1)) (nat8 (d.remainingLease p))

/-- The SUMMARY frame for the present group (R88). -/
def Dev.summaryBody (d : Dev) : Body :=
  let own := d.ht.calEntry? d.pc.station
  .summary (summaryFlags (inMask d.ht.pleas d.pc.station) own.isSome d.biu.outbox.answer.group.holdings.length
      d.pc.budget) (own.getD 0) d.ht.nextTicket

/-- The BEACON frame of this moment (R92). -/
def Dev.beaconBody (d : Dev) : Body :=
  .beacon d.ht.digest (beaconFlags (d.pc.presence == .syncing || d.pc.presence == .linkFault) d.pc.budget)

/-- The INTENT frame of this moment: next-ticket for an ENQUEUE or REQUEUE, the own entry's ticket or 0 for a
WITHDRAW (R141). -/
def Dev.intentBody (d : Dev) (a : IntentAction) : Body :=
  match a with
  | .enqueue => .intent a.code d.ht.nextTicket
  | .requeue => .intent a.code d.ht.nextTicket
  | .withdraw => .intent a.code ((d.ht.calEntry? d.pc.station).getD 0)

end Sys2Proof.Machine
end

