-- ==== Sys2Proof/Machine/Ops.lean ====
section
/-! DEFINITION. The named operations over the blocks' own data: time, counters, notices, the roster, the holdings
list, the surge history, the plea set, the calibration queue and the region records. -/

namespace Sys2Proof.Machine

/-! ### Time -/

/-- A surge entry stays while its age has not passed 1,000 µs (R3). -/
def ageSurge (now : Time) (l : List Time) : List Time := l.filter (fun t => now ≤ t + surgeTime)

/-- The local time moves on to `t` unless it is already later; surge entries that have aged out leave (R3). -/
def Dev.elapseTo (t : Time) (d : Dev) : Dev :=
  { d with now := max d.now t, ht.surge := ageSurge (max d.now t) d.ht.surge }

/-- Time passes (log 1). -/
def Dev.elapse (dt : Time) (d : Dev) : Dev := d.elapseTo (d.now + dt)

/-! ### Counters -/

/-- A counter that saturates at its limit. -/
def satInc (limit n : Nat) : Nat := if n < limit then n + 1 else n

/-- A 16-bit saturating counter. -/
def inc16 (n : Nat) : Nat := satInc Config.counterMax n

/-! ### Notices (R59, R178) -/

/-- A notice joins the queue or is dropped and counted; while a GO place is reserved one place less is open to
it (R178). -/
def Pu.judge (p : Pu) (n : Notice) : Pu :=
  if p.notices.length < Config.noticeCap - (if p.goReserved then 1 else 0) then
    { p with notices := p.notices ++ [n] }
  else { p with lost := inc16 p.lost, portError := true }

/-- CS_N rises on the TAKE that has read the head notice: the notice leaves the queue (R172). -/
def Pu.endTake (p : Pu) : Pu := { p with notices := p.notices.tail, takeLeft := 0 }

/-- A notice has been judged while a TAKE may be under way: CS_N rises after the last of those it stays low for (R172,
R178). -/
def Pu.countTake (p : Pu) : Pu := if p.takeLeft = 1 then p.endTake else { p with takeLeft := p.takeLeft - 1 }

/-- A notice arrives and is judged alone; a TAKE under way may end behind it, and so free a place before the event's
next notice is judged (R178, log 39). -/
def Pu.push (p : Pu) (n : Notice) : Pu := (p.judge n).countTake

/-- A block queues a notice. -/
def Dev.notify (n : Notice) (d : Dev) : Dev := { d with pu := d.pu.push n }

/-- GO takes its reserved place (R59): the reservation ends as it joins. -/
def Dev.notifyGo (n : Notice) (d : Dev) : Dev := { d with pu := Pu.push { d.pu with goReserved := false } n }

/-- A REFUSE notice (R176). -/
def Dev.refuse (q : ReqType) (key : Option Byte) (r : Reason) (d : Dev) : Dev := d.notify (.refuse q key r)

/-- An event of R157 took place: a selection is made at the end of the step (log 11). -/
def Dev.prompt (d : Dev) : Dev := { d with oqs.selectDue := true }

/-! ### Roster (R81, R82) -/

/-- Changes one roster record. -/
def Pc.modRoster (p : Pc) (s : Station) (f : RosterRec → RosterRec) : Pc :=
  { p with roster := p.roster.set s.toNat (f (p.rosterAt s)) s.isLt }

/-- Changes one roster record. -/
def Dev.modRoster (s : Station) (f : RosterRec → RosterRec) (d : Dev) : Dev := { d with pc := d.pc.modRoster s f }

/-- The update of R82 for a frame handed over. -/
def RosterRec.hear (now : Time) (seq : Byte) (r : RosterRec) : RosterRec :=
  { r with lastHeard := some now, state := if r.state = .absent then .member else r.state,
           lastApplied := some seq }

/-- The roster record a JOIN leaves; the three counters are kept (R81, R87). -/
def RosterRec.joined (now : Time) (seq : Byte) (r : RosterRec) : RosterRec :=
  { r with state := .member, lastHeard := some now, lastApplied := some seq, mismatch := 0 }

/-- The roster record a LEAVE or the end of LINK_FAULT leaves (R97, R100). -/
def RosterRec.cleared (r : RosterRec) : RosterRec :=
  { r with state := .absent, lastHeard := none, lastApplied := none, mismatch := 0 }

/-- Every mismatch count becomes 0 (R91, R94). -/
def Dev.clearMismatches (d : Dev) : Dev :=
  { d with pc.roster := d.pc.roster.map (fun r => { r with mismatch := 0 }) }

/-- An answer tally as a window opens (R86). -/
def Tally.fresh : Tally := { summarySeen := false, announced := 0, counted := 0, excluded := false }

/-- Changes the tally of a station if a collect window is open. -/
def Dev.modTally (s : Station) (f : Tally → Tally) (d : Dev) : Dev :=
  match d.pc.window with
  | some w =>
    { d with pc.window := some { w with tallies := w.tallies.set s.toNat (f (w.tallyAt s)) s.isLt } }
  | none => d

/-- The tally of a station is marked excluded (R83, R87, R97). -/
def Dev.excludeTally (s : Station) (d : Dev) : Dev := d.modTally s (fun t => { t with excluded := true })

/-! ### Holdings list (R1, R2) -/

/-- A record joins the list in canonical order; one with the same key is replaced (R1, R2, R15). -/
def insertHolding (h : Holding) : List Holding → List Holding
  | [] => [h]
  | x :: xs =>
    if h.key < x.key then h :: x :: xs
    else if h.key = x.key then h :: xs
    else x :: insertHolding h xs

/-- The record under a key. -/
def findHolding (s : Station) (h : Byte) (l : List Holding) : Option Holding :=
  l.find? (fun x => x.station == s && x.handle == h)

/-- The list without the record under a key. -/
def dropHolding (s : Station) (h : Byte) (l : List Holding) : List Holding :=
  l.filter (fun x => !(x.station == s && x.handle == h))

/-- Changes the record under a key. -/
def mapHolding (s : Station) (h : Byte) (f : Holding → Holding) (l : List Holding) : List Holding :=
  l.map (fun x => if x.station == s && x.handle == h then f x else x)

/-- Changes the local record of the own holding under a handle. -/
def Holding.mapPart (f : OwnPart → OwnPart) (x : Holding) : Holding :=
  match x.holder with
  | .own p => { x with holder := .own (f p) }
  | .peer _ _ => x

/-- Changes the local record of the own holding under a handle. -/
def Dev.modOwn (h : Byte) (f : OwnPart → OwnPart) (d : Dev) : Dev :=
  { d with ht.holdings := mapHolding d.pc.station h (Holding.mapPart f) d.ht.holdings }

/-- The peer record with the earliest expiry, the first in canonical order among equals (R16). -/
def earliestPeer (l : List Holding) : Option Holding :=
  l.foldl
    (fun best x =>
      match x.expiry with
      | none => best
      | some e =>
        match best with
        | none => some x
        | some b => if e < (b.expiry.getD 0) then some x else some b)
    none

/-- The expiry of a peer record from its basis, class and extensions (R20). -/
def expiryOf (basis : Int) (c : Cls) (ext : Nat) : Time :=
  (basis + ((leaseTime c * (1 + ext) + graceTime : Nat) : Int)).toNat

/-- The record of a claim received at `now` (R15). -/
def claimRecord (now : Time) (s : Station) (h : Byte) (c : Cls) (t : Target) : Holding :=
  { station := s, handle := h, cls := c, target := t, extensions := 0,
    holder := .peer (now : Int) (expiryOf now c 0) }

/-- The record of a HOLDING answer received at `now`: its expiry is the remaining lease and the grace from now,
and its basis lies before that expiry by the owner's periods and the grace (R20, R90). -/
def answerRecord (now : Time) (s : Station) (h : Byte) (c : Cls) (t : Target) (ext rem : Byte) : Holding :=
  let expiry := now + us (100 * rem.toNat) + graceTime
  { station := s, handle := h, cls := c, target := t, extensions := ext,
    holder := .peer ((expiry : Int) - ((leaseTime c * (1 + ext.toNat) + graceTime : Nat) : Int)) expiry }

/-- An EXTEND raises a peer record's extensions and recomputes its expiry (R20). -/
def Holding.extendTo (n : Byte) (x : Holding) : Holding :=
  match x.holder with
  | .peer b _ => { x with extensions := n, holder := .peer b (expiryOf b x.cls n.toNat) }
  | .own _ => { x with extensions := n }

/-! ### Surge history, plea set, calibration queue (R3 to R6) -/

/-- A receipt time joins the history; before a 17th the oldest is dropped (R3). -/
def surgeAdd (t : Time) (l : List Time) : List Time :=
  (if l.length < Config.surgeCap then l else l.drop (l.length + 1 - Config.surgeCap)) ++ [t]

/-- A station joins the plea set (R4). -/
def pleaAdd (s : Station) (m : BitVec 16) : BitVec 16 := m ||| maskBit s

/-- A station leaves the plea set (R4). -/
def pleaDrop (s : Station) (m : BitVec 16) : BitVec 16 := m &&& ~~~(maskBit s)

/-- A station's entry leaves the calibration queue, and the entries behind close up (R140). -/
def calDrop (s : Station) (q : List (Station × Word16)) : List (Station × Word16) := q.filter (fun e => e.1 != s)

/-- An ENQUEUE keeps an entry that stands and else adds one at the tail (R143). -/
def calEnqueue (s : Station) (t : Word16) (q : List (Station × Word16)) : List (Station × Word16) :=
  if q.any (fun e => e.1 == s) then q else q ++ [(s, t)]

/-- A REQUEUE moves or adds the entry at the tail with the new ticket (R144). -/
def calRequeue (s : Station) (t : Word16) (q : List (Station × Word16)) : List (Station × Word16) :=
  calDrop s q ++ [(s, t)]

/-- Places an entry by distance: before the first entry whose distance is smaller, or equal with a higher
station number, else at the tail (R140). -/
def calInsert (next : Word16) (s : Station) (t : Word16) : List (Station × Word16) → List (Station × Word16)
  | [] => [(s, t)]
  | e :: q =>
    if ticketDistance next e.2 < ticketDistance next t
        || (ticketDistance next e.2 == ticketDistance next t && decide (s < e.1)) then (s, t) :: e :: q
    else e :: calInsert next s t q

/-- A SUMMARY's entry replaces any entry of its sender, placed by distance (R151). -/
def calPlace (next : Word16) (s : Station) (t : Word16) (q : List (Station × Word16)) : List (Station × Word16) :=
  calInsert next s t (calDrop s q)

/-- An INTENT of station `s` applied to the replica, its own or a received one (R143 to R145). -/
def Ht.applyIntent (h : Ht) (s : Station) (a : IntentAction) (t : Word16) : Ht :=
  match a with
  | .enqueue => { h with calQueue := calEnqueue s t h.calQueue, nextTicket := t + 1 }
  | .requeue => { h with calQueue := calRequeue s t h.calQueue, nextTicket := t + 1 }
  | .withdraw => { h with calQueue := calDrop s h.calQueue }

/-- Whether a station has any part in the board view. -/
def Ht.mentions (h : Ht) (s : Station) : Bool :=
  h.holdings.any (fun x => x.station == s) || inMask h.pleas s || h.calQueue.any (fun e => e.1 == s)

/-- Every record, the plea and the calibration entry of a station are dropped; next-ticket and the surge history
are kept (R24). -/
def Ht.dropStation (h : Ht) (s : Station) : Ht :=
  { h with holdings := h.holdings.filter (fun x => x.station != s), pleas := pleaDrop s h.pleas,
           calQueue := calDrop s h.calQueue }

/-- The presence controller drops a station from the board view where one is kept; a drop of anything is an
event of R157. -/
def Dev.dropStation (s : Station) (d : Dev) : Dev :=
  if d.pc.presence.keepsView then
    if d.ht.mentions s then ({ d with ht := d.ht.dropStation s }).prompt else d
  else d

/-- The resync discard: only the own records, plea and calibration entry stay (R24). -/
def Ht.discardOthers (h : Ht) (own : Station) : Ht :=
  { h with holdings := h.holdings.filter (fun x => x.isOwn), pleas := h.pleas &&& maskBit own,
           calQueue := h.calQueue.filter (fun e => e.1 == own) }

/-! ### Regions (R104) -/

/-- Changes one region record. -/
def Rs.modRegion (r : Rs) (n : RegionNo) (f : Region → Region) : Rs :=
  { r with regions := r.regions.set n.toNat (f (r.regionAt n)) n.isLt }

/-- Changes one region record. -/
def Dev.modRegion (n : RegionNo) (f : Region → Region) (d : Dev) : Dev := { d with rs := d.rs.modRegion n f }

/-! ### Local queue (R153, R166) -/

/-- The entry under a tag. -/
def Oqs.entry? (o : Oqs) (t : Byte) : Option Entry := o.queue.find? (fun e => e.tag == t)

/-- Changes the entry under a tag. -/
def Dev.modEntry (t : Byte) (f : Entry → Entry) (d : Dev) : Dev :=
  { d with oqs.queue := d.oqs.queue.map (fun e => if e.tag == t then f e else e) }

/-- Sets the intent flag on the first entry that qualifies. -/
def flagFirst (p : Entry → Bool) : List Entry → List Entry
  | [] => []
  | e :: es => if p e then { e with intent := true } :: es else e :: flagFirst p es

end Sys2Proof.Machine
end

