-- ==== Sys2Proof/Machine/Outbox.lean ====
section
/-! DEFINITION. The outbox: placing a frame in its slot, successors, withdrawal, what happens to a slot when its
frame leaves or returns to waiting, and the frame the BIU offers (R42 to R46). -/

namespace Sys2Proof.Machine

/-! ### One slot with a successor (R43) -/

/-- A newer frame meets a waiting older one: `merge` gives what the slot then holds, `none` where the two
cancel. While the older is in hand the newer becomes or meets the successor. -/
def Slot.place {α : Type} (busy : Bool) (merge : α → α → Option α) (x : α) (s : Slot α) : Slot α :=
  match s.content with
  | none => { content := some { body := x, seq := none }, next := none }
  | some c =>
    if busy then
      match s.next with
      | none => { s with next := some x }
      | some y => { s with next := merge y x }
    else { content := (merge c.body x).map (fun z => { body := z, seq := none }), next := none }

/-- The frame in hand has returned to waiting: a successor is settled against it (R43). -/
def Slot.returned {α : Type} (merge : α → α → Option α) (s : Slot α) : Slot α :=
  match s.content, s.next with
  | some c, some x => { content := (merge c.body x).map (fun z => { body := z, seq := none }), next := none }
  | _, _ => s

/-- The frame in hand has left its slot: a successor takes its place (R43). -/
def Slot.freed {α : Type} (s : Slot α) : Slot α :=
  { content := s.next.map (fun x => { body := x, seq := none }), next := none }

/-- The content takes a sequence number. -/
def Slot.number {α : Type} (q : Byte) (s : Slot α) : Slot α :=
  { s with content := s.content.map (fun c => { c with seq := some q }) }

/-- The newer frame replaces the older (BEACON, RESYNC, JOIN/LEAVE, EXTEND). -/
def newerWins {α : Type} (_old new : α) : Option α := some new

/-- A PLEA and a CLEAR cancel each other (R43). -/
def pleaMerge (old new : PleaKind) : Option PleaKind := if old = new then some new else none

/-- The newer intent replaces the older; an ENQUEUE and a WITHDRAW that follows it cancel (R43). -/
def intentMerge (old new : IntentAction) : Option IntentAction :=
  if old = .enqueue ∧ new = .withdraw then none else some new

/-! ### Placing (R42, R43, R67) -/

/-- The retention scheduler places PLEA or CLEAR (R129). -/
def Biu.placePlea (k : PleaKind) (b : Biu) : Biu :=
  { b with outbox.plea := b.outbox.plea.place (b.inHandIs .plea) pleaMerge k }

/-- The selector places an INTENT (R142, R145, R148). -/
def Biu.placeIntent (a : IntentAction) (b : Biu) : Biu :=
  { b with outbox.intent := b.outbox.intent.place (b.inHandIs .intent) intentMerge a }

/-- The presence controller places a BEACON (R92). -/
def Biu.placeBeacon (b : Biu) : Biu :=
  { b with outbox.beacon := b.outbox.beacon.place (b.inHandIs .beacon) newerWins () }

/-- The presence controller places RESYNC (R94). -/
def Biu.placeResync (b : Biu) : Biu :=
  { b with outbox.resync := b.outbox.resync.place (b.inHandIs .resync) newerWins () }

/-- The presence controller places JOIN or LEAVE (R85, R96). -/
def Biu.placeJoin (k : JoinKind) (b : Biu) : Biu :=
  { b with outbox.joinLeave := b.outbox.joinLeave.place (b.inHandIs .joinLeave) newerWins k }

/-- Whether a frame of the answer group is in hand. -/
def Biu.answerBusy (b : Biu) : Bool :=
  match b.inHand with
  | some f =>
    match f.ref with
    | .summary | .holding _ => true
    | _ => false
  | none => false

/-- The part of a group that is in hand. -/
def AnswerGroup.inHandOnly (b : Biu) (g : AnswerGroup) : AnswerGroup :=
  { summary := if b.inHandIs .summary then g.summary else none,
    holdings := g.holdings.filter (fun h => b.inHandIs (.holding h.body)) }

/-- A newer answer group discards what is waiting of the older; one that meets a frame in hand follows it
(R43). -/
def Biu.placeAnswer (g : AnswerGroup) (b : Biu) : Biu :=
  if b.answerBusy then
    { b with outbox.answer := { group := b.outbox.answer.group.inHandOnly b, next := some g } }
  else { b with outbox.answer := { group := g, next := none } }

/-- The holding table places EXTEND: a newer number replaces a waiting older one for the same handle, or follows
one in hand (R43, R62). The slots stand in the order of their last placing. -/
def Biu.placeExtend (h n : Byte) (b : Biu) : Biu :=
  let others := b.outbox.extend.filter (fun e => e.handle != h)
  let slot := ((b.outbox.extend.find? (fun e => e.handle == h)).map ExtFrame.slot).getD Slot.empty
  { b with outbox.extend :=
      others ++ [{ handle := h, slot := slot.place (b.inHandIs (.extend h)) newerWins n }] }

/-- A waiting EXTEND for a handle, and a successor of one in hand, are withdrawn (R44). -/
def Biu.withdrawExtend (h : Byte) (b : Biu) : Biu :=
  if b.inHandIs (.extend h) then
    { b with outbox.extend :=
        b.outbox.extend.map (fun e => if e.handle == h then { e with slot.next := none } else e) }
  else { b with outbox.extend := b.outbox.extend.filter (fun e => e.handle != h) }

/-- The HOLDING frames of a group for a handle are withdrawn. -/
def AnswerGroup.withoutHolding (h : Byte) (g : AnswerGroup) : AnswerGroup :=
  { g with holdings := g.holdings.filter (fun x => x.body != h) }

/-- A waiting HOLDING answer for a handle is withdrawn (R44, R67). -/
def Biu.withdrawHolding (h : Byte) (b : Biu) : Biu :=
  { b with outbox.answer :=
      { group := if b.inHandIs (.holding h) then b.outbox.answer.group
                 else b.outbox.answer.group.withoutHolding h,
        next := b.outbox.answer.next.map (AnswerGroup.withoutHolding h) } }

/-- The holding table places RELEASE and withdraws a waiting EXTEND and HOLDING for the handle (R67). -/
def Biu.placeRelease (h : Byte) (o : RelOutcome) (b : Biu) : Biu :=
  let b := (b.withdrawExtend h).withdrawHolding h
  { b with outbox.release := b.outbox.release ++ [{ handle := h, outcome := o, seq := none }] }

/-- Whether a RELEASE for a handle stands in its slot. -/
def Outbox.hasRelease (o : Outbox) (h : Byte) : Bool := o.release.any (fun r => r.handle == h)

/-- Whether the INTENT slot holds an action, as content or successor (log 28). -/
def Slot.holds {α : Type} [DecidableEq α] (x : α) (s : Slot α) : Bool :=
  s.content.map OutFrame.body == some x || s.next == some x

/-- A REQUEUE that waits is withdrawn when the own CAL claim is delivered (R44, R149). -/
def Biu.withdrawRequeue (b : Biu) : Biu :=
  if b.inHandIs .intent then b
  else
    match b.outbox.intent.content with
    | some c => if c.body = .requeue then { b with outbox.intent := Slot.empty } else b
    | none => b

/-! ### A frame leaves its slot, or returns to waiting -/

/-- The ANSWER slot after its frame in hand has ended one way or the other: a newer group takes it. -/
def AnswerSlot.settle (a : AnswerSlot) : AnswerSlot :=
  match a.next with
  | some g => { group := g, next := none }
  | none => a

/-- The EXTEND slots after the frame of one of them has left. -/
def freeExtend (h : Byte) (l : List ExtFrame) : List ExtFrame :=
  let l' := l.map (fun e => if e.handle == h then { e with slot := e.slot.freed } else e)
  l'.filter (fun e => e.slot.content.isSome)

/-- A frame that is finished, undelivered or dropped leaves its slot (R40, R41, R45). -/
def Outbox.remove (r : SlotRef) (o : Outbox) : Outbox :=
  match r with
  | .release h => { o with release := o.release.filter (fun x => x.handle != h) }
  | .extend h => { o with extend := freeExtend h o.extend }
  | .claim => { o with claim := none }
  | .plea => { o with plea := o.plea.freed }
  | .intent => { o with intent := o.intent.freed }
  | .summary => { o with answer := AnswerSlot.settle { o.answer with group.summary := none } }
  | .holding h => { o with answer := AnswerSlot.settle { o.answer with group := o.answer.group.withoutHolding h } }
  | .resync => { o with resync := o.resync.freed }
  | .beacon => { o with beacon := o.beacon.freed }
  | .joinLeave => { o with joinLeave := o.joinLeave.freed }

/-- A frame other than a claim returns to waiting after a loss or an abort before any completed send: its
successor is settled against it, and an EXTEND or HOLDING whose RELEASE has been placed is withdrawn (R43,
R44). -/
def Outbox.backToWaiting (r : SlotRef) (o : Outbox) : Outbox :=
  match r with
  | .release _ => o
  | .extend h =>
    if o.hasRelease h then { o with extend := o.extend.filter (fun e => e.handle != h) }
    else { o with extend := o.extend.map (fun e => if e.handle == h then { e with slot := e.slot.returned newerWins } else e) }
  | .claim => o
  | .plea => { o with plea := o.plea.returned pleaMerge }
  | .intent => { o with intent := o.intent.returned intentMerge }
  | .summary => { o with answer := o.answer.settle }
  | .holding h =>
    { o with answer :=
        (if o.hasRelease h then { o.answer with group := o.answer.group.withoutHolding h } else o.answer).settle }
  | .resync => { o with resync := o.resync.returned newerWins }
  | .beacon => { o with beacon := o.beacon.returned newerWins }
  | .joinLeave => { o with joinLeave := o.joinLeave.returned newerWins }

/-- A slot without its successor. -/
def Slot.alone {α : Type} (s : Slot α) : Slot α := { s with next := none }

/-- The outbox emptied but for one frame (R45). -/
def Outbox.only (r : SlotRef) (o : Outbox) : Outbox :=
  match r with
  | .release h => { Outbox.empty with release := o.release.filter (fun x => x.handle == h) }
  | .extend h =>
    { Outbox.empty with
      extend := (o.extend.filter (fun e => e.handle == h)).map (fun e => { e with slot := e.slot.alone }) }
  | .claim => { Outbox.empty with claim := o.claim }
  | .plea => { Outbox.empty with plea := o.plea.alone }
  | .intent => { Outbox.empty with intent := o.intent.alone }
  | .summary =>
    { Outbox.empty with answer := { group := { AnswerGroup.empty with summary := o.answer.group.summary }, next := none } }
  | .holding h =>
    { Outbox.empty with
      answer :=
        { group := { AnswerGroup.empty with holdings := o.answer.group.holdings.filter (fun x => x.body == h) },
          next := none } }
  | .resync => { Outbox.empty with resync := o.resync.alone }
  | .beacon => { Outbox.empty with beacon := o.beacon.alone }
  | .joinLeave => { Outbox.empty with joinLeave := o.joinLeave.alone }

/-! ### Offering (R46) -/

/-- A frame the BIU may offer: its slot, its content as it stands now, and the sequence number it has taken. -/
structure Offer where
  ref : SlotRef
  body : Body
  seq : Option Byte
deriving DecidableEq, Repr

/-- The RELEASE placed first. -/
def Outbox.offerRelease (o : Outbox) : Option Offer :=
  o.release.head?.map (fun r => { ref := .release r.handle, body := .release r.handle r.outcome.code, seq := r.seq })

/-- The EXTEND placed first. -/
def Outbox.offerExtend (o : Outbox) : Option Offer :=
  o.extend.head?.bind (fun e =>
    e.slot.content.map (fun c => { ref := .extend e.handle, body := .extend e.handle c.body, seq := c.seq }))

/-- The staged claim, if its kind is the one asked for; a waiting claim is offered in MEMBER alone. -/
def Dev.offerClaim (d : Dev) (urgent : Bool) : Option Offer :=
  if d.pc.presence = .member then
    d.biu.outbox.claim.bind (fun c =>
      if c.urgent = urgent then some { ref := .claim, body := c.body, seq := c.seq } else none)
  else none

/-- The PLEA or CLEAR. -/
def Outbox.offerPlea (o : Outbox) : Option Offer :=
  o.plea.content.map (fun c =>
    { ref := .plea, body := match c.body with | .plea => .plea | .clear => .clear, seq := c.seq })

/-- The INTENT, offered in MEMBER alone. -/
def Dev.offerIntent (d : Dev) : Option Offer :=
  if d.pc.presence = .member then
    d.biu.outbox.intent.content.map (fun c => { ref := .intent, body := d.intentBody c.body, seq := c.seq })
  else none

/-- The first HOLDING of the group, once the group's SUMMARY has left. -/
def Dev.offerHolding (d : Dev) : Option Offer :=
  if d.biu.outbox.answer.group.summary.isSome then none
  else
    d.biu.outbox.answer.group.holdings.findSome? (fun f =>
      (d.ownHolding? f.body).bind (fun h =>
        h.part.map (fun p => { ref := .holding f.body, body := d.holdingBody h p, seq := f.seq })))

/-- The SUMMARY of the group. -/
def Dev.offerSummary (d : Dev) : Option Offer :=
  d.biu.outbox.answer.group.summary.map (fun q => { ref := .summary, body := d.summaryBody, seq := q })

/-- The RESYNC. -/
def Outbox.offerResync (o : Outbox) : Option Offer :=
  o.resync.content.map (fun c => { ref := .resync, body := .resync, seq := c.seq })

/-- The BEACON. -/
def Dev.offerBeacon (d : Dev) : Option Offer :=
  d.biu.outbox.beacon.content.map (fun c => { ref := .beacon, body := d.beaconBody, seq := c.seq })

/-- The JOIN, with the strapped budget code and protocol version 1 (R85), or the LEAVE. -/
def Dev.offerJoin (d : Dev) (k : JoinKind) : Option Offer :=
  d.biu.outbox.joinLeave.content.bind (fun c =>
    if c.body = k then
      some { ref := .joinLeave,
             body := match k with | .join => .join (d.pc.budget.setWidth 8) 1 | .leave => .leave,
             seq := c.seq }
    else none)

/-- The waiting frame of lowest kind code that may be sent, where no frame is committed (R46). -/
def Dev.firstOffer (d : Dev) : Option Offer :=
  d.biu.outbox.offerRelease <|> d.biu.outbox.offerExtend <|> d.offerClaim true <|> d.biu.outbox.offerPlea <|> d.offerClaim false
    <|> d.offerIntent <|> d.offerHolding <|> d.offerSummary <|> d.biu.outbox.offerResync <|> d.offerBeacon
    <|> d.offerJoin .join <|> d.offerJoin .leave

end Sys2Proof.Machine
end

