-- ==== Sys2Proof/Machine/Selector.lean ====
section
/-! DEFINITION. The claim in the CLAIM slot, the local queue's entries, INTENT ENQUEUE, selection and staging, the
head timer, and what closes every step (R49 to R56, R142, R147, R157 to R166). -/

namespace Sys2Proof.Machine

/-! ### Out of the CLAIM slot (R51, R55, R161 to R166) -/

/-- The CLAIM slot becomes empty and a reserved GO place lapses (R59); an event of R157. -/
def Dev.clearClaimSlot (d : Dev) : Dev :=
  ({ d with biu.outbox.claim := none, pu.goReserved := false }).prompt

/-- The origin of an unstaged claim: its local entry returns to QUEUED, or its region's staged-RFB mark is cleared
(R51). -/
def Dev.returnOrigin (c : Claim) (d : Dev) : Dev :=
  match c.tag with
  | some t => d.modEntry t (fun e => { e with staged := false })
  | none => d.modRegion c.target.region (fun r => { r with stagedRfb := false })

/-- A claim is unstaged (R51). -/
def Dev.unstage (c : Claim) (d : Dev) : Dev := d.clearClaimSlot.returnOrigin c

/-- A STAGED claim is unstaged, if there is one (R56). -/
def Dev.unstageWaiting (d : Dev) : Dev :=
  match d.biu.stagedClaim with
  | some c => d.unstage c
  | none => d

/-- The claim in the CLAIM slot is called back by HOLD or by an entry into URGENT: at once while it is STAGED; while its
first send is under way, at the end of the attempt, should that end without a completed send (R44, R161, log 12). -/
def Dev.callBack (d : Dev) : Dev :=
  match d.biu.outbox.claim with
  | none => d
  | some c =>
    if d.biu.inHandIs .claim then { d with biu.outbox.claim := some { c with unstageDue := true } }
    else d.unstage c

/-- An entry leaves the local queue by CANCEL, by its deadline or with an undelivered claim: its intent flag passes
to the oldest remaining CAL entry, or WITHDRAW is placed where none remains (R145, R166). -/
def Dev.removeEntry (t : Byte) (d : Dev) : Dev :=
  match d.oqs.entry? t with
  | none => d
  | some e =>
    let q := d.oqs.queue.filter (fun x => x.tag != t)
    if e.intent then
      if q.any (fun x => x.cls == .cal) then { d with oqs.queue := flagFirst (fun x => x.cls == .cal) q }
      else { d with oqs.queue := q, biu := d.biu.placeIntent .withdraw }
    else { d with oqs.queue := q }

/-- An entry leaves with its notice, EXPIRED or CANCELLED (R162, R164). -/
def Dev.endEntry (t : Byte) (n : Notice) (d : Dev) : Dev := (d.removeEntry t).notify n

/-- Whether the entry under a tag is overdue (R163). -/
def Dev.isOverdue (d : Dev) (t : Byte) : Bool := ((d.oqs.entry? t).map Entry.overdue).getD false

/-- A claim that ends without delivery: a cancelled or overdue entry leaves with its notice, any other origin is
returned (R52, R55, R163, R165). The reserved GO place lapses before the notice is judged (the model's order, log 42).
-/
def Dev.endClaim (c : Claim) (d : Dev) : Dev :=
  match c.tag with
  | some t =>
    if c.cancel then d.clearClaimSlot.endEntry t (.cancelled t)
    else if d.isOverdue t then d.clearClaimSlot.endEntry t (.expired t)
    else d.unstage c
  | none => d.unstage c

/-- Whether a claim whose attempt ended before any completed send leaves the CLAIM slot: it was cancelled, its
deadline passed, an unstaging waited for it, or the station is LEAVING or in a fault (R52, R56, R161). -/
def Dev.claimEndsNow (c : Claim) (d : Dev) : Bool :=
  c.cancel || c.unstageDue || (c.tag.map d.isOverdue).getD false
    || d.pc.presence == .leaving || d.pc.presence == .linkFault || d.pc.presence == .configFault

/-- The claim's attempt was lost or aborted before any completed send (R52, R53, R56). -/
def Dev.claimBack (d : Dev) : Dev :=
  match d.biu.outbox.claim with
  | some c => if d.claimEndsNow c then d.endClaim c else d
  | none => d

/-! ### Staging (R49, R50) -/

/-- The first handle from `h` on that is not in use, trying at most `fuel` steps (R50). -/
def nextHandle (used : List Byte) : Nat → Byte → Byte
  | 0, h => h
  | fuel + 1, h => if used.contains h then nextHandle used fuel (h + 1) else h

/-- The handles passed over: those of own holdings and of the forced list (R50). -/
def Dev.usedHandles (d : Dev) : List Byte := d.ownHoldings.map Holding.handle ++ d.ht.forced.map (fun f => f.1)

/-- The handle the next staged claim takes (R50). -/
def Dev.freshHandle (d : Dev) : Byte := nextHandle d.usedHandles d.usedHandles.length d.ht.handleCtr

/-- The claim record enters the CLAIM slot (R49). -/
def Dev.stageClaim (c : Cls) (t : Target) (tag : Option Byte) (d : Dev) : Dev :=
  { d with
    biu.outbox.claim := some { handle := d.freshHandle, cls := c, target := t, tag := tag, cancel := false,
                               urgent := d.urgentClaim c, unstageDue := false, seq := none },
    ht.handleCtr := d.freshHandle + 1 }

/-- A refresh demand is staged with the region's row-group pointer (R49, R111). -/
def Dev.stageRfb (r : RegionNo) (d : Dev) : Dev :=
  (d.stageClaim .rfb { region := r, group := (d.rs.regionAt r).pointer } none).modRegion r
    (fun x => { x with stagedRfb := true })

/-- A local entry is staged (R49, R161). -/
def Dev.stageEntry (t : Byte) (d : Dev) : Dev :=
  match d.oqs.entry? t with
  | some e =>
    (d.stageClaim e.cls { region := e.region.getD 0, group := 0 } (some t)).modEntry t
      (fun x => { x with staged := true })
  | none => d

/-! ### Selection (R157 to R160) -/

/-- What step 2 of a selection finds; `passed` lists the tags of the entries that failed with A4 first. -/
inductive LocalChoice where
  | chosen (tag : Byte) (passed : List Byte)
  | block
  | nothing (passed : List Byte)
deriving DecidableEq, Repr

/-- The entries in queue order, the first that passes being chosen (R159). -/
def scanEntries (test : Entry → Option Cond) : List Byte → List Entry → LocalChoice
  | passed, [] => .nothing passed
  | passed, e :: es =>
    match test e with
    | none => .chosen e.tag passed
    | some .a4 => scanEntries test (passed ++ [e.tag]) es
    | some _ => scanEntries test passed es

/-- The entries whose bypass count has reached 4 are tested first, oldest first; one that fails with A4 blocks, one
that fails otherwise is set aside (R160). -/
def scanBlockers (test : Entry → Option Cond) (rest : List Entry) : List Entry → LocalChoice
  | [] => scanEntries test [] rest
  | e :: es =>
    match test e with
    | none => .chosen e.tag []
    | some .a4 => .block
    | some _ => scanBlockers test rest es

/-- The admission test of a local entry. -/
def Dev.testEntry (d : Dev) (e : Entry) : Option Cond := d.firstFail e.cls (e.region.getD 0)

/-- Step 2 of a selection over the QUEUED entries (R159, R160). -/
def Dev.localChoice (d : Dev) : LocalChoice :=
  let queued := d.oqs.queue.filter (fun e => !e.staged)
  scanBlockers d.testEntry (queued.filter (fun e => e.bypass < 4)) (queued.filter (fun e => !(e.bypass < 4)))

/-- Entries passed over for want of units gain 1, up to 4 (R159). -/
def Dev.bump (passed : List Byte) (d : Dev) : Dev :=
  { d with
    oqs.queue := d.oqs.queue.map (fun e => if passed.contains e.tag then { e with bypass := satInc 4 e.bypass } else e) }

/-- Step 3 of a selection: pull-in (R158, R159). -/
def Dev.selectPullIn (passed : List Byte) (d : Dev) : Dev :=
  match d.pullInDemand with
  | some r => if (d.firstFail .rfb r).isNone then (d.bump passed).stageRfb r else d
  | none => d

/-- Steps 2 and 3 of a selection (R158). -/
def Dev.selectLocal (d : Dev) : Dev :=
  if d.rs.urgency == .urgent || otherPlea d.ht.pleas d.pc.station then d.selectPullIn []
  else
    match d.localChoice with
    | .chosen t passed => (d.bump passed).stageEntry t
    | .block => d
    | .nothing passed => d.selectPullIn passed

/-- One selection (R158). -/
def Dev.selectOnce (d : Dev) : Dev :=
  match d.normalDemand with
  | some r => if (d.firstFail .rfb r).isNone then d.stageRfb r else d.selectLocal
  | none => d.selectLocal

/-- A selection is made if an event of R157 took place and the five conditions hold; the selection timer restarts
with it. -/
def Dev.runSelection (d : Dev) : Dev :=
  if d.oqs.selectDue then
    if d.selectable then
      Dev.selectOnce { d with oqs.selectDue := false, oqs.selTimer := some (d.now + selectTime) }
    else { d with oqs.selectDue := false }
  else d

/-- The selection timer runs while the five conditions hold and is stopped while any fails (R157). -/
def Dev.keepSelTimer (d : Dev) : Dev :=
  if d.selectable then
    match d.oqs.selTimer with
    | some _ => d
    | none => { d with oqs.selTimer := some (d.now + selectTime) }
  else { d with oqs.selTimer := none }

/-! ### Intents (R142, R166) and the head timer (R147) -/

/-- The intent flags clear where the own entry is not in the own replica and no ENQUEUE is on its way (R142,
R166). -/
def Dev.clearStaleFlags (d : Dev) : Dev :=
  if (d.ht.calEntry? d.pc.station).isNone && !d.biu.outbox.intent.holds .enqueue then
    { d with oqs.queue := d.oqs.queue.map (fun e => { e with intent := false }) }
  else d

/-- The conditions for INTENT ENQUEUE (R142). -/
def Dev.wantsEnqueue (d : Dev) : Bool :=
  d.pc.presence == .member
    && d.oqs.queue.any (fun e => e.cls == .cal && !e.staged)
    && (d.ht.calEntry? d.pc.station).isNone
    && !d.biu.outbox.intent.holds .enqueue && !d.biu.outbox.intent.holds .requeue
    && d.ownHoldings.all (fun h => h.cls != .cal)

/-- INTENT ENQUEUE is placed and the oldest QUEUED CAL entry takes the intent flag (R142). -/
def Dev.placeEnqueue (d : Dev) : Dev :=
  if d.wantsEnqueue then
    { d with biu := d.biu.placeIntent .enqueue,
             oqs.queue := flagFirst (fun e => e.cls == .cal && !e.staged) d.oqs.queue }
  else d

/-- Whether the head timer's station stands at the head as a MEMBER. -/
def Dev.headAsMember (d : Dev) : Bool := d.pc.presence == .member && d.isHead

/-- The head timer starts as the own entry becomes head in MEMBER and stops as that ends (R147). `before` is the
part as the step found it. -/
def Dev.keepHeadTimer (before d : Dev) : Dev :=
  if d.headAsMember then
    if before.headAsMember then d else { d with ht.headTimer := some (d.now + headTime) }
  else { d with ht.headTimer := none }

/-! ### The close of a step -/

/-- A TAKE that ended between the notices of the step has freed a place, an event of R157. -/
def Dev.noteTake (before d : Dev) : Dev := if before.pu.takeLeft ≠ 0 ∧ d.pu.takeLeft = 0 then d.prompt else d

/-- What closes every step that takes place: the head timer, the intent flags and ENQUEUE, a selection if one is due,
and the selection timer (log 11). -/
def Dev.close (before d : Dev) : Dev :=
  (Dev.keepHeadTimer before (Dev.noteTake before d)).clearStaleFlags.placeEnqueue.runSelection.keepSelTimer

/-- CS_N rises, at the latest before the next transfer, on a TAKE that has read the head notice: the notice leaves the
queue, and the selector is told, as an event of its own (R157, R172, log 39). -/
def Dev.endTake (d : Dev) : Dev :=
  if d.pu.takeLeft = 0 then d else Dev.close d (Dev.prompt { d with pu := d.pu.endTake })

end Sys2Proof.Machine
end

