-- ==== Sys2Proof/Machine/Presence.lean ====
section
/-! DEFINITION. Changes of presence state, the urgency evaluation and its plea, contests and resync, answer groups,
replica clear, LINK_FAULT and CONFIG_FAULT (R22, R24, R80, R86 to R102, R128, R129). -/

namespace Sys2Proof.Machine

/-- A change of presence state queues STATE (R80). -/
def Dev.enter (p : Presence) (d : Dev) : Dev := ({ d with pc.presence := p }).notify (.state p)

/-! ### Urgency (R128, R129, R132) -/

/-- On entering URGENT a local entry that is STAGED is unstaged (R132, R161). -/
def Dev.urgentUnstage (d : Dev) : Dev :=
  match d.biu.outbox.claim with
  | none => d
  | some c => if c.cls = .rfb then d else d.callBack

/-- The frame that matches a changed urgency state is placed while the plea mark is PLEA or CLEAR (R129). -/
def Dev.placePleaFor (u : Urgency) (d : Dev) : Dev :=
  match d.rs.pleaMark with
  | .none => d
  | .plea | .clear =>
    match u with
    | .urgent => { d with biu := d.biu.placePlea .plea, rs.pleaMark := .plea }
    | .normal => { d with biu := d.biu.placePlea .clear, rs.pleaMark := .clear }

/-- The urgency evaluation (R128); a change is an event of R157. -/
def Dev.evalUrgency (d : Dev) : Dev :=
  let u := nextUrgency d.rs.urgency d.rs.greatestDebt d.rs.startLevel d.rs.endLevel
  if u = d.rs.urgency then d
  else
    let d' := (Dev.placePleaFor u { d with rs.urgency := u }).prompt
    if u = .urgent then d'.urgentUnstage else d'

/-! ### Answers (R74, R88) -/

/-- The answer group as the station would place it now: a SUMMARY and one HOLDING for each own holding that is RUNNING
or OVERRUN, in ascending handle order (R88). -/
def Dev.answerGroup (d : Dev) : AnswerGroup :=
  { summary := some none,
    holdings := (d.ownHoldings.filter (fun h => (h.part.map OwnPart.awaitsDone).getD false)).map
        (fun h => { body := h.handle, seq := none }) }

/-- An answer group is placed if the station's state answers (R87, R95). -/
def Dev.answerIfDue (d : Dev) : Dev :=
  if d.answers then { d with biu := d.biu.placeAnswer d.answerGroup } else d

/-! ### Into LISTENING, SYNCING and MEMBER (R84, R86, R91, R94) -/

/-- LISTENING is entered with its timer; no beacons (R84, R92). -/
def Dev.enterListening (d : Dev) : Dev :=
  Dev.enter .listening { d with pc.listenEnds := some (d.now + listenTime), pc.beaconEnds := none }

/-- A collect window opens (R86, R94). -/
def Dev.openWindow (d : Dev) : Dev :=
  { d with pc.window := some { ends := d.now + collectTime, tallies := Vector.replicate 16 Tally.fresh } }

/-- READY at the first entry into MEMBER since reset or REJOIN (R80). -/
def Dev.giveReady (d : Dev) : Dev :=
  if d.pc.readyGiven then d
  else ({ d with pc.readyGiven := true }).notify (.ready d.pc.station d.units)

/-- The beacon timer restarts at the station number times 100 µs; station 0 places its BEACON at once (R92). -/
def Dev.startBeacons (d : Dev) : Dev :=
  if d.pc.station = 0 then
    { d with biu := d.biu.placeBeacon, pc.beaconEnds := some (d.now + beaconTime) }
  else { d with pc.beaconEnds := some (d.now + us (100 * d.pc.station.toNat)) }

/-- The plea mark leaves NONE at an entry into MEMBER that is not the end of a resync (R129). -/
def Dev.markPlea (d : Dev) : Dev :=
  match d.rs.urgency with
  | .urgent => { d with biu := d.biu.placePlea .plea, rs.pleaMark := .plea }
  | .normal => { d with rs.pleaMark := .clear }

/-- MEMBER is entered from JOINING or SYNCING (R80, R91, R92, R124, R129). -/
def Dev.enterMember (d : Dev) : Dev :=
  let resync := d.pc.syncCause == some .resync
  let d := Dev.enter .member { d with pc.syncCause := none, pc.window := none, pu.setupLock := true }
  let d := d.giveReady.clearMismatches.startBeacons
  (if resync then d else d.markPlea).prompt

/-- The window ends as its answers are complete (R91). -/
def Dev.checkAnswers (d : Dev) : Dev :=
  match d.pc.window with
  | some w => if d.pc.presence = .syncing && d.answersComplete w then d.enterMember else d
  | none => d

/-- A MEMBER starts a resync, with no collect window until its RESYNC is delivered (R94). -/
def Dev.startResync (d : Dev) : Dev :=
  let d := Dev.enter .syncing { d.clearMismatches with pc.syncCause := some .resync, pc.window := none }
  { d with biu := d.biu.placeResync, pc.resyncs := inc16 d.pc.resyncs }

/-! ### Contests (R22) -/

/-- A contest with its sender: counted, alerted, and a resync from MEMBER; a peer's roster record counts it too
(R22, R58). -/
def Dev.contest (s : Station) (d : Dev) : Dev :=
  let d := { d with ht.contests := inc16 d.ht.contests }
  let d := if s = d.pc.station then d else d.modRoster s (fun r => { r with contests := inc16 r.contests })
  let d := d.notify (.alert (.contest s))
  if d.pc.presence = .member then d.startResync else d

/-- The contest check of R22 on the replica as it now stands: held above B, or two CAL records. -/
def Dev.overfull (d : Dev) : Bool := decide (d.free < 0) || decide (2 ≤ calRecords d.ht.holdings)

/-! ### Replica clear and emptying the outbox (R24, R45) -/

/-- CANCELLED is notified for each CANCELLING holding that a replica clear ends (R76). Where it ends two, the spec gives
their notices no order; the model queues them in the order of the list, by ascending handle (its choice, log 41). -/
def Dev.notifyCancelling (d : Dev) : Dev :=
  d.ownHoldings.foldl
    (fun d h =>
      match h.part with
      | some p =>
        match p.state, p.tag with
        | .cancelling, some t => d.notify (.cancelled t)
        | _, _ => d
      | none => d)
    d

/-- The replica clear (R24); the plea mark returns to NONE (R129). -/
def Dev.clearReplica (d : Dev) : Dev :=
  let d := d.notifyCancelling
  { d with ht.holdings := [], ht.surge := [], ht.pleas := 0, ht.calQueue := [], ht.nextTicket := 0,
           rs.pleaMark := .none }

/-- The claim as the outbox is emptied: a STAGED claim is unstaged, one committed between two attempts and not
delivered ends undelivered, one in transmission stays (R45, R56, log 14). -/
def Dev.emptyClaim (d : Dev) : Dev :=
  match d.biu.outbox.claim, d.biu.inHand with
  | none, _ => d
  | some c, none => d.unstage c
  | some c, some f =>
    if f.ref = .claim then
      if f.sending then d
      else if f.delivered then d.clearClaimSlot
      else d.endClaim c
    else d.unstage c

/-- The outbox is emptied; the frame in transmission stays to its end (R45). -/
def Dev.emptyOutbox (d : Dev) : Dev :=
  let d := d.emptyClaim
  match d.biu.inHand with
  | some f =>
    if f.sending then { d with biu.outbox := d.biu.outbox.only f.ref }
    else { d with biu.outbox := Outbox.empty, biu.inHand := none }
  | none => { d with biu.outbox := Outbox.empty }

/-! ### LINK_FAULT (R99, R100) -/

/-- Steps 1 to 5 of R100, taken with no attempt under way. -/
def Dev.recover (d : Dev) : Dev :=
  let d := d.emptyOutbox.clearReplica
  Dev.enterListening
    { d with pc.roster := d.pc.roster.map RosterRec.cleared, biu.losses := 0, biu.consecErrors := 0 }

/-- LINK_FAULT is entered on a report of the BIU from JOINING, SYNCING, MEMBER or LEAVING; if the own holdings have
settled already, the steps of R100 follow at once (R99, R100, log 15). STATE and ALERT are judged while a GO place
that a STAGED claim holds is still reserved, and it lapses behind them: no rule orders the two (the model's choice,
log 42). -/
def Dev.linkFault (c : LinkCause) (d : Dev) : Dev :=
  if d.pc.presence.mayLinkFault then
    let d := Dev.enter .linkFault { d with pc.syncCause := none, pc.window := none }
    let d := (d.notify (.alert (.linkFault c))).unstageWaiting
    if d.settled && !d.biu.attempting then d.recover else d
  else d

/-! ### CONFIG_FAULT (R101, R102) -/

/-- CONFIG_FAULT is entered: STATE and ALERT, no timer of the presence controller runs, the outbox is emptied and the
plea mark returns to NONE (R80, R101, R102, R129). -/
def Dev.configFault (c : CfgCause) (d : Dev) : Dev :=
  let d := Dev.enter .configFault
    { d with pc.syncCause := none, pc.cfgCause := some c, pc.window := none, pc.listenEnds := none,
             pc.beaconEnds := none }
  let d := (d.notify (.alert (.configFault c))).emptyOutbox
  { d with rs.pleaMark := .none }

/-! ### The own RELEASE and EXTEND (R62, R67) -/

/-- The holding table places RELEASE in the holding's slot (R67). -/
def Dev.placeRelease (h : Byte) (o : RelOutcome) (d : Dev) : Dev := { d with biu := d.biu.placeRelease h o }

end Sys2Proof.Machine
end

