-- ==== Sys2Proof/Machine/Act.lean ====
section
/-! DEFINITION. How a command acts on the part: outside OFFLINE, where its event can take place, its effect followed by
the close of the step; nothing but the passing of time otherwise (logs 4, 5). -/

namespace Sys2Proof.Machine

/-- The answer of a meaning: the commands that wait are not touched. -/
def State.answer (s : State) (d : Dev) : Host.Outcome State Fault Refusal := .next { s with dev := d }

/-- An event acts where the part is not held in OFFLINE and the event can take place. -/
def Dev.act (can : Dev → Bool) (eff : Dev → Dev) (d : Dev) : Dev :=
  if d.pc.presence != .offline && can d then Dev.close d (eff d) else d

/-- An event that can take place in every state outside OFFLINE. -/
def always (_ : Dev) : Bool := true

/-- A transfer on the controller port: none is taken while reset is held, and one whose CS_N was low as reset was
released is ignored, its end being all that it brings (R170, log 22). A TAKE still under way has ended before another
transfer begins (R172, log 39). -/
def Dev.onPort (eff : Dev → Dev) (d : Dev) : Dev :=
  if d.pc.presence = .offline then d
  else if d.pu.csLow then { d with pu.csLow := false, pu.sdo := .highZ }
  else eff d.endTake

/-- A transfer that is taken, and the close of its step. -/
def Dev.actPort (eff : Dev → Dev) (d : Dev) : Dev := d.onPort (fun d => Dev.close d (eff d))

/-- The moment at which a timer ends: the local time moves there, and the event acts. A timer that does not run has
no such moment (logs 2, 4). -/
def Dev.actAt (t : Option Time) (eff : Dev → Dev) (d : Dev) : Dev :=
  match t with
  | some t => Dev.act always eff (d.elapseTo t)
  | none => d

end Sys2Proof.Machine
end

