-- ==== Sys2Proof/Machine/Bus.lean ====
section
/-! DEFINITION. The station's own frames on the line: BUS_FREE, ARBITRATION_LOSS, BIT_ERROR and SEND_COMPLETE, with what
the delivery of each kind of own frame does (R16, R19, R29 to R34, R39 to R46, R51 to R60, R68 to R70, R86, R94,
R97). -/

namespace Sys2Proof.Machine

/-! ### BUS_FREE (R29, R46, R51) -/

/-- The STAGED claim is tested as the bus becomes free: it takes its kind, or it is unstaged (R10, R51, log 27). -/
def Dev.retest (d : Dev) : Dev :=
  match d.biu.stagedClaim with
  | none => d
  | some c =>
    if d.pc.presence = .member then
      if d.stagedPasses c then { d with biu.outbox.claim := some { c with urgent := d.urgentClaim c.cls } }
      else d.unstage c
    else d

/-- LINK_FAULT once the own holdings have settled: the outbox is about to be emptied, and nothing more is offered
(R100, log 15). -/
def Dev.recovering (d : Dev) : Bool := d.pc.presence == .linkFault && d.settled

/-- Whether the BIU offers waiting frames (R79). -/
def Dev.offering (d : Dev) : Bool := d.pc.presence.serves && !d.recovering

/-- Whether a repeat that is due is offered: while the outbox is served, and in DETACHED for the LEAVE (R46, R79,
R97). -/
def Dev.mayRepeat (d : Dev) (f : InHand) : Bool :=
  d.offering || (d.pc.presence == .detached && f.ref == .joinLeave)

/-- A frame's slot notes the sequence number the frame has taken (R29). -/
def Outbox.number (r : SlotRef) (q : Byte) (o : Outbox) : Outbox :=
  match r with
  | .release h =>
    { o with release := o.release.map (fun x => if x.handle == h then { x with seq := some q } else x) }
  | .extend h =>
    { o with extend := o.extend.map (fun e => if e.handle == h then { e with slot := e.slot.number q } else e) }
  | .claim => { o with claim := o.claim.map (fun c => { c with seq := some q }) }
  | .plea => { o with plea := o.plea.number q }
  | .intent => { o with intent := o.intent.number q }
  | .summary => { o with answer.group.summary := o.answer.group.summary.map (fun _ => some q) }
  | .holding h =>
    { o with answer.group.holdings :=
        o.answer.group.holdings.map (fun x => if x.body == h then { x with seq := some q } else x) }
  | .resync => { o with resync := o.resync.number q }
  | .beacon => { o with beacon := o.beacon.number q }
  | .joinLeave => { o with joinLeave := o.joinLeave.number q }

/-- The line carries the bytes of the frame in hand (R29, R185). -/
def Dev.driveFrame (f : InHand) (d : Dev) : Dev :=
  { d with biu.inHand := some f, biu.busFree := false,
           biu.line := .sending (drivenBytes f.patience f.fresh d.pc.station f.seq f.body) }

/-- An arbitration attempt of a waiting frame begins: it takes a sequence number at its first attempt, and patience from
the loss count, and goes out with the fresh flag set; a claim's GO place is reserved (R29, R32, R53, R59). -/
def Dev.startAttempt (o : Offer) (d : Dev) : Dev :=
  let q := o.seq.getD d.biu.seqCtr
  Dev.driveFrame
    { ref := o.ref, body := o.body, seq := q, patience := patienceOf d.biu.losses, fresh := true, sending := true,
      sends := 0, acked := 0, delivered := false }
    { d with
      biu.seqCtr := if o.seq.isSome then d.biu.seqCtr else d.biu.seqCtr + 1,
      biu.outbox := d.biu.outbox.number o.ref q,
      pu.goReserved := d.pu.goReserved || o.ref == .claim }

/-- An attempt of a repeat begins, with patience from the loss count and fresh flag 0 (R32, R40, R54). -/
def Dev.startRepeat (f : InHand) (d : Dev) : Dev :=
  d.driveFrame { f with sending := true, patience := patienceOf d.biu.losses, fresh := false }

/-- The bus has become free: the staged claim is tested, and the BIU offers at most one frame, a repeat that is due
before any other (R46). -/
def Dev.busFree (d : Dev) : Dev :=
  let d := Dev.retest { d with biu.busFree := true, biu.line := .silent }
  match d.biu.inHand with
  | some f => if d.mayRepeat f then d.startRepeat f else d
  | none =>
    if d.offering then
      match d.firstOffer with
      | some o => d.startAttempt o
      | none => d
    else d

/-- BUS_FREE: 11 recessive bit times have been seen, or the bus is still free. It cannot come while an attempt is
under way (R28, R46, log 9). -/
def execBusFree (dt : Time) (s : State) : Host.Outcome State Fault Refusal :=
  s.answer (Dev.act (fun d => !d.biu.attempting) Dev.busFree (s.dev.elapse dt))

/-! ### The end of an attempt without a completed send (R31, R33, R42, R43, R45, R52, R53) -/

/-- A frame leaves its slot without more: finished, or dropped in CONFIG_FAULT. A claim's slot becomes empty; one that
was not delivered is dealt with as R55 lays down. -/
def Dev.leaveSlot (f : InHand) (d : Dev) : Dev :=
  let d := { d with biu.inHand := none }
  if f.ref = .claim then
    if f.delivered then d.clearClaimSlot
    else
      match d.biu.outbox.claim with
      | some c => d.endClaim c
      | none => d
  else { d with biu.outbox := d.biu.outbox.remove f.ref }

/-- The attempt under way was lost or aborted. A committed frame stays committed; any other returns to waiting, where
deferred cancels, deadlines, withdrawals and successors take effect. In CONFIG_FAULT the frame is dropped (R45). -/
def Dev.attemptFailed (d : Dev) : Dev :=
  match d.biu.inHand with
  | none => d
  | some f =>
    if d.pc.presence = .configFault then d.leaveSlot f
    else if f.sends = 0 then
      let d := { d with biu.inHand := none }
      if f.ref = .claim then d.claimBack
      else { d with biu.outbox := d.biu.outbox.backToWaiting f.ref }
    else { d with biu.inHand := some { f with sending := false } }

/-- The station has lost the arbitration (R31, R32). -/
def Dev.arbitrationLost (d : Dev) : Dev :=
  Dev.attemptFailed { d with biu.losses := satInc Config.lossMax d.biu.losses, biu.line := .silent }

/-- ARBITRATION_LOSS: only while an attempt is under way. -/
def execArbitrationLoss (dt : Time) (s : State) : Host.Outcome State Fault Refusal :=
  s.answer (Dev.act (fun d => d.biu.attempting) Dev.arbitrationLost (s.dev.elapse dt))

/-- The sender aborts with 8 dominant bits and counts a bus error; the sixteenth in a row is a link fault, entered
behind the end of the attempt (R33, R34; the model's order, log 42). -/
def Dev.bitError (d : Dev) : Dev :=
  let n := d.biu.consecErrors + 1
  let d := Dev.attemptFailed
    { d with biu.consecErrors := if Config.errorRun ≤ n then 0 else n, biu.totalErrors := inc16 d.biu.totalErrors,
             biu.line := .abort }
  if Config.errorRun ≤ n then d.linkFault .busErrors else d

/-- BIT_ERROR: only while an attempt is under way. -/
def execBitError (dt : Time) (s : State) : Host.Outcome State Fault Refusal :=
  s.answer (Dev.act (fun d => d.biu.attempting) Dev.bitError (s.dev.elapse dt))

/-! ### Own frames delivered -/

/-- The own record of a delivered claim (R16, R57, R60). -/
def ownRecord (own : Station) (now : Time) (c : Claim) : Holding :=
  { station := own, handle := c.handle, cls := c.cls, target := c.target, extensions := 0,
    holder := .own { goSent := !c.cancel, leaseEnds := if c.cancel then none else some (now + leaseTime c.cls),
                     period := 1, done := none, tag := c.tag } }

/-- The list with room for the own record: the peer record with the earliest expiry goes from a full list (R16). -/
def makeRoom (l : List Holding) : List Holding :=
  if l.length < Config.holdingsCap then l
  else
    match earliestPeer l with
    | some p => dropHolding p.station p.handle l
    | none => l

/-- Step 1 of R57: the surge entry, the own record, and the contest of a full list or of a delivery on a repeat (R16,
R58, log 16). The CAL claim stops the head timer and withdraws a waiting REQUEUE (R149). -/
def Dev.addOwnRecord (c : Claim) (onRepeat : Bool) (d : Dev) : Dev :=
  let full := !(d.ht.holdings.length < Config.holdingsCap)
  let d := { d with
    ht.surge := surgeAdd d.now d.ht.surge,
    ht.holdings := insertHolding (ownRecord d.pc.station d.now c) (makeRoom d.ht.holdings) }
  let d := if c.cls = .cal then { d with ht.headTimer := none, biu := d.biu.withdrawRequeue } else d
  if full || (onRepeat && d.overfull) then d.contest d.pc.station else d

/-- Step 2 of R57: the local entry leaves the queue, its intent flag with it, or the staged-RFB mark is cleared (R57,
R166). -/
def Dev.claimGranted (c : Claim) (d : Dev) : Dev :=
  match c.tag with
  | some t => { d with oqs.queue := d.oqs.queue.filter (fun e => e.tag != t) }
  | none => d.modRegion c.target.region (fun r => { r with stagedRfb := false })

/-- Step 3 of R57: GO takes its reserved place, or a cancelled claim's RELEASE is placed and the reservation lapses,
behind the notices of step 1 (R59, R60; the model's order, log 42). -/
def Dev.goOrCancel (c : Claim) (d : Dev) : Dev :=
  if c.cancel then ({ d with pu.goReserved := false }).placeRelease c.handle .cancelled
  else d.notifyGo (.go c.handle c.cls c.tag c.target (leaseMicros c.cls))

/-- The own claim is delivered (R57, R58). -/
def Dev.ownClaimDelivered (onRepeat : Bool) (d : Dev) : Dev :=
  match d.biu.outbox.claim with
  | some c => (((d.addOwnRecord c onRepeat).claimGranted c).goOrCancel c).prompt
  | none => d

/-- A refresh that is credited: the debt falls by 1, to no less than −8, and the pointer advances (R69). -/
def Region.credit (r : Region) : Region :=
  if r.exempt then r else { r with debt := max (-8) (r.debt - 1), pointer := r.pointer + 1 }

/-- The own RELEASE is delivered: the holding is removed, with the effects of its outcome and class (R19, R68 to
R70). -/
def Dev.ownReleaseDelivered (h : Byte) (o : RelOutcome) (d : Dev) : Dev :=
  match findHolding d.pc.station h d.ht.holdings with
  | none => d
  | some x =>
    let d := { d with ht.holdings := dropHolding d.pc.station h d.ht.holdings,
                      ht.calQueue := if x.cls = Cls.cal then calDrop d.pc.station d.ht.calQueue else d.ht.calQueue }
    let d :=
      match o, x.part.bind OwnPart.tag with
      | .cancelled, some t => d.notify (.cancelled t)
      | _, _ => d
    let d := if x.cls = .rfb ∧ o = .ok then (d.modRegion x.target.region Region.credit).evalUrgency else d
    d.prompt

/-- The own EXTEND is delivered: the own record takes its number (R20). -/
def Dev.ownExtendDelivered (h n : Byte) (d : Dev) : Dev :=
  ({ d with ht.holdings := mapHolding d.pc.station h (fun x => { x with extensions := n }) d.ht.holdings }).prompt

/-- The own INTENT is delivered and applied to the own replica; a REQUEUE that leaves the station at the head starts
its head timer anew (R143 to R145, R147). -/
def Dev.ownIntentDelivered (a : IntentAction) (t : Word16) (d : Dev) : Dev :=
  let d := ({ d with ht := d.ht.applyIntent d.pc.station a t }).prompt
  if a = .requeue ∧ d.headAsMember then { d with ht.headTimer := some (d.now + headTime) } else d

/-- The own JOIN is delivered: MEMBER in the solo case, else SYNCING with its collect window and beacon timer (R86). -/
def Dev.ownJoinDelivered (d : Dev) : Dev :=
  if d.pc.presence = .joining then
    if d.pc.memberMask = 0 then d.enterMember
    else
      let d := Dev.enter .syncing { d with pc.syncCause := some .join, pc.beaconEnds := some (d.now + beaconTime) }
      d.openWindow
  else d

/-- The own RESYNC is delivered: the resync discard, and in SYNCING the collect window, which is complete at once where
no other member is known (R24, R91, R94, log 26). -/
def Dev.ownResyncDelivered (d : Dev) : Dev :=
  let d := ({ d with ht := d.ht.discardOthers d.pc.station }).prompt
  if d.pc.presence = .syncing ∧ d.pc.window = none then d.openWindow.checkAnswers else d

/-- The own LEAVE is delivered in LEAVING: the replica is cleared, every slot but JOIN/LEAVE is emptied, the beacon
timer stops and DETACHED is entered; in any other state none of this happens (R97). -/
def Dev.ownLeaveDelivered (d : Dev) : Dev :=
  if d.pc.presence = .leaving then
    let d := d.clearReplica
    Dev.enter .detached
      { d with biu.outbox := { Outbox.empty with joinLeave := d.biu.outbox.joinLeave }, pc.beaconEnds := none }
  else d

/-- An own frame is delivered: it is applied once (R39). -/
def Dev.deliver (f : InHand) (d : Dev) : Dev :=
  match f.body with
  | .release h o => d.ownReleaseDelivered h (RelOutcome.ofCode o)
  | .extend h n => d.ownExtendDelivered h n
  | .claim _ _ _ _ _ => d.ownClaimDelivered (decide (1 < f.sends))
  | .plea => ({ d with ht.pleas := pleaAdd d.pc.station d.ht.pleas }).prompt
  | .clear => ({ d with ht.pleas := pleaDrop d.pc.station d.ht.pleas }).prompt
  | .intent a t =>
    match IntentAction.ofCode a with
    | some a => d.ownIntentDelivered a t
    | none => d
  | .holding _ _ _ _ _ _ => d
  | .summary _ _ _ => d
  | .resync => d.ownResyncDelivered
  | .beacon _ _ => d
  | .join _ _ => d.ownJoinDelivered
  | .leave => d.ownLeaveDelivered

/-! ### SEND_COMPLETE (R32, R34, R39 to R41) -/

/-- The frame in hand after a completed send, before delivery is judged (R39). -/
def InHand.sent (f : InHand) (acks members : BitVec 16) : InHand :=
  { f with sending := false, sends := f.sends + 1, acked := f.acked ||| (acks &&& members) }

/-- The set holds a current member, or the roster holds no other member (R39). -/
def InHand.reached (f : InHand) (members : BitVec 16) : Bool := members == 0 || f.acked &&& members != 0

/-- What follows a completed send: acknowledged by every current member the frame is finished; a repeat is due up to
three times, but in CONFIG_FAULT, where the frame is dropped without one; after the third it is finished if it was
delivered, else undelivered: counted, and a link fault where the state can enter one (R40, R41, R45, R56). A frame that
CONFIG_FAULT drops before its third repeat is not counted (log 14); log 13 reads undelivered as never delivered. What
becomes of an undelivered claim comes before the link fault (R55, log 42). -/
def Dev.afterSend (d : Dev) : Dev :=
  match d.biu.inHand with
  | none => d
  | some f =>
    if d.pc.memberMask &&& ~~~f.acked = 0 then d.leaveSlot f
    else if f.sends ≤ Config.maxRepeats then
      if d.pc.presence = .configFault then d.leaveSlot f else d
    else if f.delivered then d.leaveSlot f
    else
      let d := { d with biu.undelivered := inc16 d.biu.undelivered }
      (d.leaveSlot f).linkFault .undelivered

/-- A send of the frame in hand reached the end of its acknowledgement field with these slots driven (R39). -/
def Dev.sendComplete (acks : BitVec 16) (d : Dev) : Dev :=
  match d.biu.inHand with
  | none => d
  | some f0 =>
    let f := f0.sent acks d.pc.memberMask
    let arrived := !f.delivered && f.reached d.pc.memberMask
    let d := { d with biu.losses := 0, biu.consecErrors := 0, biu.line := .silent,
                      biu.inHand := some { f with delivered := f.delivered || arrived } }
    Dev.afterSend (if arrived then d.deliver f else d)

/-- SEND_COMPLETE: only while an attempt is under way; the two acknowledgement bytes say which stations drove their
slots (R185). -/
def execSendComplete (dt : Time) (acks : AckBytes) (s : State) : Host.Outcome State Fault Refusal :=
  s.answer (Dev.act (fun d => d.biu.attempting) (Dev.sendComplete (ackSlots acks.first acks.second))
    (s.dev.elapse dt))

end Sys2Proof.Machine
end

