-- ==== Sys2Proof/Machine/Timers.lean ====
section
/-! DEFINITION. The moments of the part's own timers and conditions: listen, collect, beacon, silence, peer expiry,
surge ageing, lease, accrual, head, selection and deadline, and the two conditions OWN_HOLDINGS_DRAINED and
LINK_FAULT_RECOVERY (R3, R21, R61 to R63, R75, R76, R83, R85, R91, R92, R100, R106 to R109, R148, R157, R162, R163).
-/

namespace Sys2Proof.Machine

/-! ### Presence controller -/

/-- The listen window ends: JOIN is placed and JOINING is entered (R85). -/
def Dev.listenEnd (d : Dev) : Dev :=
  Dev.enter .joining { d with pc.listenEnds := none, biu := d.biu.placeJoin .join }

/-- LISTEN_TIMER_EXPIRY (R85). -/
def execListenTimerExpiry (s : State) : Host.Outcome State Fault Refusal :=
  s.answer (Dev.actAt s.dev.pc.listenEnds Dev.listenEnd s.dev)

/-- COLLECT_TIMER_EXPIRY: the window ends and MEMBER is entered (R91). -/
def execCollectTimerExpiry (s : State) : Host.Outcome State Fault Refusal :=
  s.answer (Dev.actAt (s.dev.pc.window.map Window.ends) Dev.enterMember s.dev)

/-- The beacon timer expires at `t`: a BEACON is placed and the timer restarts (R92). -/
def Dev.beaconDue (t : Time) (d : Dev) : Dev :=
  { d with biu := d.biu.placeBeacon, pc.beaconEnds := some (t + beaconTime) }

/-- BEACON_TIMER_EXPIRY (R92). -/
def execBeaconTimerExpiry (s : State) : Host.Outcome State Fault Refusal :=
  s.answer (Dev.actAt s.dev.pc.beaconEnds (Dev.beaconDue (s.dev.pc.beaconEnds.getD 0)) s.dev)

/-- When a station's record becomes SILENT: a MEMBER record other than the own, 6,000 µs after it was last heard, in
a state that keeps the roster (R81, R83). -/
def Dev.silenceAt (st : Station) (d : Dev) : Option Time :=
  if d.pc.presence.keepsRoster && d.pc.isMember st then
    ((d.pc.rosterAt st).lastHeard).map (fun t => t + silenceTime)
  else none

/-- A record becomes SILENT: its mismatch count, its tally and its part of the board view go (R83). -/
def Dev.fallSilent (st : Station) (d : Dev) : Dev :=
  ((((d.modRoster st (fun r => { r with state := .silent, mismatch := 0 })).excludeTally st).dropStation
    st).checkAnswers)

/-- SILENCE (R83). -/
def execSilence (station : Station) (s : State) : Host.Outcome State Fault Refusal :=
  s.answer (Dev.actAt (s.dev.silenceAt station) (Dev.fallSilent station) s.dev)

/-- OWN_HOLDINGS_DRAINED: in LEAVING, once no own holding, RELEASE or claim remains, LEAVE is placed, once (R75, R96).
-/
def execOwnHoldingsDrained (s : State) : Host.Outcome State Fault Refusal :=
  s.answer (Dev.act
    (fun d => d.pc.presence == .leaving && d.drained && !d.biu.outbox.joinLeave.holds .leave)
    (fun d => { d with biu := d.biu.placeJoin .leave }) s.dev)

/-- LINK_FAULT_RECOVERY: once own holdings have settled and no attempt is under way (R76, R100). -/
def execLinkFaultRecovery (s : State) : Host.Outcome State Fault Refusal :=
  s.answer (Dev.act (fun d => d.pc.presence == .linkFault && d.settled && !d.biu.attempting) Dev.recover s.dev)

/-! ### Holding table -/

/-- When a peer record expires. -/
def Dev.expiryAt (st : Station) (h : Byte) (d : Dev) : Option Time :=
  (findHolding st h d.ht.holdings).bind Holding.expiry

/-- A peer record is dropped at its expiry; its owner's calibration entry stays (R21). -/
def Dev.expirePeer (st : Station) (h : Byte) (d : Dev) : Dev :=
  ({ d with ht.holdings := dropHolding st h d.ht.holdings }).prompt

/-- PEER_EXPIRY (R21). -/
def execPeerExpiry (station : Station) (handle : Byte) (s : State) : Host.Outcome State Fault Refusal :=
  s.answer (Dev.actAt (s.dev.expiryAt station handle) (Dev.expirePeer station handle) s.dev)

/-- SURGE_ENTRY_AGEING: the oldest entry leaves at the age of 1,000 µs (R3, log 23). -/
def execSurgeEntryAgeing (s : State) : Host.Outcome State Fault Refusal :=
  s.answer (Dev.actAt (s.dev.ht.surge.head?.map (fun t => t + surgeTime))
    (fun d => { d with ht.surge := s.dev.ht.surge.tail.filter (fun t => d.now ≤ t + surgeTime) }) s.dev)

/-- When the lease timer of an own holding ends. -/
def Dev.leaseAt (h : Byte) (d : Dev) : Option Time :=
  (d.ownHolding? h).bind (fun x => x.part.bind OwnPart.leaseEnds)

/-- What an ALERT names an own holding by: its tag, or its region for an RFB (R180). -/
def tagOrRegion (x : Holding) (p : OwnPart) : Byte :=
  if x.cls = .rfb then x.target.region.setWidth 8 else orZero p.tag

/-- The first or second expiry at `t`: EXTEND is placed, the timer restarts in the next period, and ALERT OVERRUN is
queued (R62). -/
def Dev.leaseExtend (x : Holding) (p : OwnPart) (t : Time) (d : Dev) : Dev :=
  let d := { d with biu := d.biu.placeExtend x.handle (nat8 p.period) }
  let d := d.modOwn x.handle
    (fun q => { q with leaseEnds := some (t + leaseTime x.cls), period := p.period + 1 })
  d.notify (.alert (.overrun x.handle (nat8 p.period) (tagOrRegion x p)))

/-- The third expiry: the release is forced (R63, R71). -/
def Dev.leaseForce (x : Holding) (p : OwnPart) (d : Dev) : Dev :=
  let d := d.modOwn x.handle (fun q => { q with leaseEnds := none })
  let d := { d with ht.forced := d.ht.forced ++ [(x.handle, p.tag)] }
  (d.notify (.alert (.forced x.handle (tagOrRegion x p)))).placeRelease x.handle .forced

/-- An own holding's lease timer expires and is handled by its lease period (R61). -/
def Dev.leaseExpire (h : Byte) (t : Time) (d : Dev) : Dev :=
  match d.ownHolding? h with
  | none => d
  | some x =>
    match x.part with
    | none => d
    | some p => if p.period < 3 then d.leaseExtend x p t else d.leaseForce x p

/-- LEASE_TIMER_EXPIRY (R61). -/
def execLeaseTimerExpiry (handle : Byte) (s : State) : Host.Outcome State Fault Refusal :=
  s.answer (Dev.actAt (s.dev.leaseAt handle) (Dev.leaseExpire handle ((s.dev.leaseAt handle).getD 0)) s.dev)

/-- The head timer expires and stops; INTENT REQUEUE is placed unless the slot holds a WITHDRAW or a REQUEUE (R147,
R148). -/
def Dev.headExpire (d : Dev) : Dev :=
  let d := { d with ht.headTimer := none }
  if d.biu.outbox.intent.holds .withdraw || d.biu.outbox.intent.holds .requeue then d
  else { d with biu := d.biu.placeIntent .requeue }

/-- HEAD_TIMER_EXPIRY (R148). -/
def execHeadTimerExpiry (s : State) : Host.Outcome State Fault Refusal :=
  s.answer (Dev.actAt s.dev.ht.headTimer Dev.headExpire s.dev)

/-! ### Retention scheduler -/

/-- When an ACTIVE region's accrual timer ends; it is stopped during HOLD and for an EXEMPT region (R105, R106). -/
def Dev.accrualAt (r : RegionNo) (d : Dev) : Option Time :=
  match (d.rs.regionAt r).timer with
  | .running t => some t
  | .stopped _ => none

/-- An accrual raises the debt, or is a lapse at +8 (R108, R109). -/
def Region.accrue (r : Region) : Region :=
  if r.debt < 8 then { r with debt := r.debt + 1 } else { r with lapses := inc16 r.lapses }

/-- A region accrues at `t`: the debt rises or a lapse is counted and alerted, the timer restarts at the interval of the
grade in force, and the urgency evaluation follows (R106, R108, R109, R128). -/
def Dev.accrue (r : RegionNo) (t : Time) (d : Dev) : Dev :=
  let lapse := !decide ((d.rs.regionAt r).debt < 8)
  let d := d.modRegion r (fun x => { x.accrue with timer := .running (t + d.rs.grade.interval) })
  let d := if lapse then d.notify (.alert (.lapse r (d.rs.regionAt r).lapses)) else d
  d.evalUrgency

/-- ACCRUAL_TIMER_EXPIRY (R106). -/
def execAccrualTimerExpiry (region : RegionNo) (s : State) : Host.Outcome State Fault Refusal :=
  s.answer (Dev.actAt (s.dev.accrualAt region) (Dev.accrue region ((s.dev.accrualAt region).getD 0)) s.dev)

/-! ### Operation queue and selector -/

/-- SELECTION_TIMER_EXPIRY: a selection is made (R157). -/
def execSelectionTimerExpiry (s : State) : Host.Outcome State Fault Refusal :=
  s.answer (Dev.actAt s.dev.oqs.selTimer Dev.prompt s.dev)

/-- When the deadline of the entry under a tag passes; it passes once (R162, R163). -/
def Dev.deadlineAt (tag : Byte) (d : Dev) : Option Time :=
  (d.oqs.entry? tag).bind (fun e => if e.overdue then none else e.deadline)

/-- Whether the entry under a tag is STAGED with its claim SENDING (R153, R163, R165). -/
def Dev.entrySending (d : Dev) (e : Entry) : Bool := e.staged && d.biu.claimSending

/-- An entry that is QUEUED, or STAGED with its claim waiting, leaves the queue with a notice; its claim leaves the
CLAIM slot first, and its reserved GO place lapses before the notice is judged (R162, R164; the model's order, log
42). -/
def Dev.dropEntry (e : Entry) (n : Notice) (d : Dev) : Dev :=
  (if e.staged then d.clearClaimSlot else d).endEntry e.tag n

/-- A deadline passes: the entry is removed with EXPIRED, or becomes overdue while its claim is SENDING (R162, R163). -/
def Dev.deadlinePass (tag : Byte) (d : Dev) : Dev :=
  match d.oqs.entry? tag with
  | none => d
  | some e =>
    if d.entrySending e then d.modEntry tag (fun x => { x with overdue := true })
    else d.dropEntry e (.expired tag)

/-- DEADLINE_PASSES (R162, R163). -/
def execDeadlinePasses (tag : Byte) (s : State) : Host.Outcome State Fault Refusal :=
  s.answer (Dev.actAt (s.dev.deadlineAt tag) (Dev.deadlinePass tag) s.dev)

end Sys2Proof.Machine
end

