-- ==== Sys2Proof/Machine/Requests.lean ====
section
/-! DEFINITION. The controller's requests but for QUERY: SETUP, SUBMIT, CANCEL, DONE, RATE, HOLD, RESUME, LEAVE and
REJOIN (R64, R65, R73, R96, R98, R112, R119 to R125, R154 to R156, R164, R165, R176, R177). -/

namespace Sys2Proof.Machine

/-- A PUT shifts 00h out throughout (R171). -/
def Dev.quietSdo (d : Dev) : Dev := { d with pu.sdo := .shifted [] }

/-! ### SETUP (R123 to R125) -/

/-- The fields of a SETUP are in range: mode bits 7 to 4 are 0, start level 3 to 7, end level below it (R123, R187). -/
def setupOk (modes start stop : Byte) : Bool :=
  decide (modes.toNat < 16) && decide (3 ≤ start.toNat) && decide (start.toNat ≤ 7) && decide (stop.toNat < start.toNat)

/-- A region is made EXEMPT (R125). -/
def Region.makeExempt (r : Region) : Region := { r with exempt := true, debt := 0, timer := .stopped 0 }

/-- The regions whose mode bit is set become EXEMPT (R125, R187). -/
def Rs.exemptRegions (modes : Byte) (r : Rs) : Rs :=
  regionNos.foldl (fun r n => if modes.getLsbD n.toNat then r.modRegion n Region.makeExempt else r) r

/-- A SETUP request (R123 to R125). -/
def Dev.setupRequest (modes start stop : Byte) (d : Dev) : Dev :=
  if d.pu.setupLock then d.refuse .setup none .locked
  else if setupOk modes start stop then
    Dev.evalUrgency
      { d with rs := { d.rs.exemptRegions modes with startLevel := start.toNat, endLevel := stop.toNat },
               pu.setupLock := true }
  else d.refuse .setup none .badField

/-- SETUP (R125). -/
def execSetup (dt : Time) (modes start stop : Byte) (s : State) : Host.Outcome State Fault Refusal :=
  s.answer (Dev.actPort (fun d => Dev.setupRequest modes start stop d.quietSdo) (s.dev.elapse dt))

/-! ### SUBMIT (R154 to R156) -/

/-- Whether a tag is that of an entry or of an own holding (R154). -/
def Dev.tagInUse (d : Dev) (t : Byte) : Bool :=
  d.oqs.queue.any (fun e => e.tag == t)
    || d.ownHoldings.any (fun h => h.part.bind OwnPart.tag == some t)

/-- The classes a controller may submit (R155). -/
def submittedClass (c : Byte) : Option Cls :=
  match Cls.ofCode c with
  | some .rfb => none
  | x => x

/-- The fields of a SUBMIT are in range: a class that may be submitted, and a region 0 to 3 but for a CAL (R155). -/
def submitFieldsOk (cls region : Byte) : Bool :=
  match submittedClass cls with
  | none => false
  | some .cal => true
  | some _ => decide (region.toNat ≤ 3)

/-- The region number of a field byte. -/
def regionOf (b : Byte) : RegionNo := b.extractLsb' 0 2

/-- The reason of the first condition of R155 that fails. -/
def Dev.submitRefusal (d : Dev) (tag cls region : Byte) : Option Reason :=
  if d.pc.presence = .configFault then some .faulted
  else if d.rs.hold then some .held
  else if !submitFieldsOk cls region then some .badField
  else if submittedClass cls = some .scb ∧ (d.rs.regionAt (regionOf region)).exempt then some .exemptRegion
  else if d.tagInUse tag then some .duplicateTag
  else if Config.queueCap ≤ d.oqs.queue.length then some .full
  else none

/-- The entry a SUBMIT adds (R156). -/
def newEntry (now : Time) (tag : Byte) (c : Cls) (region : Byte) (notAfter : Word16) : Entry :=
  { tag := tag, cls := c, region := if c = .cal then none else some (regionOf region),
    deadline := if notAfter = 0 then none else some (now + us (100 * notAfter.toNat)),
    overdue := false, bypass := 0, staged := false, intent := false }

/-- A SUBMIT request (R155, R156). -/
def Dev.submitRequest (tag cls region : Byte) (notAfter : Word16) (d : Dev) : Dev :=
  match d.submitRefusal tag cls region with
  | some r => d.refuse .submit (some tag) r
  | none =>
    match submittedClass cls with
    | some c =>
      (({ d with oqs.queue := d.oqs.queue ++ [newEntry d.now tag c region notAfter] }).notify (.accept tag)).prompt
    | none => d

/-- SUBMIT (R155, R156). -/
def execSubmit (dt : Time) (tag cls region : Byte) (notAfter : Word16) (s : State) :
    Host.Outcome State Fault Refusal :=
  s.answer (Dev.actPort (fun d => Dev.submitRequest tag cls region notAfter d.quietSdo) (s.dev.elapse dt))

/-! ### CANCEL (R164, R165) -/

/-- A CANCEL whose tag names no entry: RUNNING for an own holding whose GO was sent, else UNKNOWN (R165). -/
def Dev.cancelHolding (d : Dev) (tag : Byte) : Reason :=
  match d.ownHoldings.find? (fun h => h.part.bind OwnPart.tag == some tag) with
  | some h => if (h.part.map OwnPart.goSent).getD false then .running else .unknown
  | none => .unknown

/-- A CANCEL whose tag names an entry whose claim is SENDING: the cancel mark is set, or a second CANCEL is refused
(R165). -/
def Dev.cancelSending (tag : Byte) (d : Dev) : Dev :=
  match d.biu.outbox.claim with
  | some c =>
    if c.cancel then d.refuse .cancel (some tag) .unknown
    else { d with biu.outbox.claim := some { c with cancel := true } }
  | none => d.refuse .cancel (some tag) .unknown

/-- A CANCEL request (R164, R165). -/
def Dev.cancelRequest (tag : Byte) (d : Dev) : Dev :=
  match d.oqs.entry? tag with
  | none => d.refuse .cancel (some tag) (d.cancelHolding tag)
  | some e =>
    if d.entrySending e then d.cancelSending tag
    else d.dropEntry e (.cancelled tag)

/-- CANCEL (R164, R165). -/
def execCancel (dt : Time) (tag : Byte) (s : State) : Host.Outcome State Fault Refusal :=
  s.answer (Dev.actPort (fun d => Dev.cancelRequest tag d.quietSdo) (s.dev.elapse dt))

/-! ### DONE (R64, R65, R73) -/

/-- A DONE for a handle on the forced list: LATE, and the entry leaves the list; quarantine ends with the last (R73). -/
def Dev.lateDone (h : Byte) (tag : Option Byte) (o : DoneOutcome) (d : Dev) : Dev :=
  let rest := d.ht.forced.filter (fun f => f.1 != h)
  let d := ({ d with ht.forced := rest }).notify (.late h tag o)
  if rest.isEmpty then d.prompt else d

/-- A DONE is accepted: the outcome is recorded, the lease timer stops, RELEASE is placed (R65). -/
def Dev.acceptDone (h : Byte) (o : DoneOutcome) (d : Dev) : Dev :=
  (d.modOwn h (fun p => { p with done := some o, leaseEnds := none })).placeRelease h o.toRelease

/-- A DONE request, by the first case of R64 that fits. -/
def Dev.doneRequest (h outcome : Byte) (d : Dev) : Dev :=
  match DoneOutcome.ofCode outcome with
  | none => d.refuse .done (some h) .badField
  | some o =>
    match d.ht.forced.find? (fun f => f.1 == h) with
    | some f => d.lateDone h f.2 o
    | none => if d.awaitsDone h then d.acceptDone h o else d.refuse .done (some h) .unknown

/-- DONE (R64). -/
def execDone (dt : Time) (handle outcome : Byte) (s : State) : Host.Outcome State Fault Refusal :=
  s.answer (Dev.actPort (fun d => Dev.doneRequest handle outcome d.quietSdo) (s.dev.elapse dt))

/-! ### RATE, HOLD, RESUME (R112, R119 to R122) -/

/-- The grade a RATE carries (R112). -/
def Grade.ofCode (b : Byte) : Option Grade :=
  match b.toNat with
  | 1 => some .one
  | 2 => some .two
  | _ => none

/-- A RATE request (R112). -/
def Dev.rateRequest (g : Byte) (d : Dev) : Dev :=
  match Grade.ofCode g with
  | some g => { d with rs.grade := g }
  | none => d.refuse .rate none .badField

/-- RATE (R112). -/
def execRate (dt : Time) (grade : Byte) (s : State) : Host.Outcome State Fault Refusal :=
  s.answer (Dev.actPort (fun d => Dev.rateRequest grade d.quietSdo) (s.dev.elapse dt))

/-- A running accrual timer stops and keeps its remaining time (R119). -/
def Region.stopTimer (now : Time) (r : Region) : Region :=
  match r.timer with
  | .running t => { r with timer := .stopped (t - now) }
  | .stopped _ => r

/-- Every accrual timer stops (R119). -/
def Rs.stopTimers (now : Time) (r : Rs) : Rs := { r with regions := r.regions.map (Region.stopTimer now) }

/-- A HOLD request (R119). -/
def Dev.holdRequest (d : Dev) : Dev :=
  if d.rs.hold then d.refuse .hold none .held
  else Dev.callBack { d with rs := { d.rs.stopTimers d.now with hold := true } }

/-- HOLD (R119). -/
def execHold (dt : Time) (s : State) : Host.Outcome State Fault Refusal :=
  s.answer (Dev.actPort (fun d => Dev.holdRequest d.quietSdo) (s.dev.elapse dt))

/-- RESUME raises an ACTIVE region's debt to at least 1 (R122). -/
def Region.raise (r : Region) : Region := if r.exempt then r else { r with debt := max r.debt 1 }

/-- RESUME restarts an ACTIVE region's accrual timer with the time it kept (R122). -/
def Region.restart (now : Time) (r : Region) : Region :=
  if r.exempt then r
  else
    match r.timer with
    | .stopped left => { r with timer := .running (now + left) }
    | .running _ => r

/-- A RESUME request (R122). -/
def Dev.resumeRequest (d : Dev) : Dev :=
  if d.rs.hold then
    let d := Dev.evalUrgency { d with rs := { d.rs with hold := false, regions := d.rs.regions.map Region.raise } }
    ({ d with rs := { d.rs with regions := d.rs.regions.map (Region.restart d.now) } }).prompt
  else d.refuse .resume none .notHeld

/-- RESUME (R122). -/
def execResume (dt : Time) (s : State) : Host.Outcome State Fault Refusal :=
  s.answer (Dev.actPort (fun d => Dev.resumeRequest d.quietSdo) (s.dev.elapse dt))

/-! ### LEAVE and REJOIN (R96, R98, R177) -/

/-- A LEAVE request: LEAVING from MEMBER, with LEAVE placed at once if the own holdings have drained (R96). STATE is
judged while a GO place that a STAGED claim holds is still reserved, and it lapses behind it: no rule orders the two
(the model's choice, log 42). -/
def Dev.leaveRequest (d : Dev) : Dev :=
  if d.pc.presence = .member then
    let d := (d.enter .leaving).unstageWaiting
    if d.drained then { d with biu := d.biu.placeJoin .leave } else d
  else d.refuse .leave none .busy

/-- LEAVE_REQUEST (R96, R177). -/
def execLeaveRequest (dt : Time) (s : State) : Host.Outcome State Fault Refusal :=
  s.answer (Dev.actPort (fun d => Dev.leaveRequest d.quietSdo) (s.dev.elapse dt))

/-- A REJOIN request: LISTENING from DETACHED, the ready-given flag cleared (R98). -/
def Dev.rejoinRequest (d : Dev) : Dev :=
  if d.pc.presence = .detached then Dev.enterListening { d with pc.readyGiven := false }
  else d.refuse .rejoin none .busy

/-- REJOIN (R98, R177). -/
def execRejoin (dt : Time) (s : State) : Host.Outcome State Fault Refusal :=
  s.answer (Dev.actPort (fun d => Dev.rejoinRequest d.quietSdo) (s.dev.elapse dt))

end Sys2Proof.Machine
end

