-- ==== Sys2Proof/Machine/Replies.lean ====
section
/-! DEFINITION. QUERY: the content of each topic and part, and the six QUERY commands (R126, R168, R181 to R183,
R189). Items that are absent are sent as 0 (R189). -/

namespace Sys2Proof.Machine

/-- What is left of a running timer, in units of 100 µs, rounded up (R189). -/
def Dev.left (d : Dev) (ends : Option Time) : Nat :=
  match ends with
  | some t => ticks (t - d.now)
  | none => 0

/-- A set of flags at the low bits of a byte, bit 0 first. -/
def flagBits : List Bool → Byte
  | [] => 0
  | b :: bs => (flagBits bs <<< 1) ||| bitAt 0 b

/-! ### REGIONS (R126) -/

/-- The time a region's timer reports, running or stopped (R126). -/
def Dev.regionLeft (d : Dev) (r : Region) : Nat :=
  match r.timer with
  | .running t => ticks (t - d.now)
  | .stopped left => ticks left

/-- Whether an accrual timer runs. -/
def AccrualTimer.runs : AccrualTimer → Bool
  | .running _ => true
  | .stopped _ => false

/-- The seven bytes of a region. -/
def Dev.regionBytes (d : Dev) (n : RegionNo) : List Byte :=
  let r := d.rs.regionAt n
  [flagBits [r.exempt, r.timer.runs, r.stagedRfb, (d.ownRfb? n).isSome], BitVec.ofInt 8 r.debt,
    r.pointer.setWidth 8] ++ nat16 r.lapses ++ [nat8 (d.regionLeft r), orZero ((d.ownRfb? n).map Holding.handle)]

/-- The code of a rate grade (R112). -/
def Grade.code : Grade → Byte
  | .one => 1
  | .two => 2

/-- The REGIONS reply (R126). -/
def Dev.regionsReply (d : Dev) : List Byte :=
  regionNos.flatMap d.regionBytes ++
    [d.rs.grade.code, flagBits [d.rs.hold, d.rs.urgency == .urgent, d.pu.setupLock], nat8 d.rs.startLevel,
     nat8 d.rs.endLevel]

/-! ### QUEUE (R168) -/

/-- The region of a staged refresh demand (R168). -/
def Dev.stagedDemand (d : Dev) : Option RegionNo :=
  match d.biu.openClaim with
  | some c => if c.cls = .rfb then some c.target.region else none
  | none => none

/-- The code of an entry's state: 0 QUEUED, 1 STAGED, 2 SENDING (R153, R189). -/
def Dev.entryState (d : Dev) (e : Entry) : Byte := if d.entrySending e then 2 else if e.staged then 1 else 0

/-- The cancel mark of an entry is that of its claim. -/
def Dev.entryCancel (d : Dev) (e : Entry) : Bool :=
  match d.biu.openClaim with
  | some c => c.tag == some e.tag && c.cancel
  | none => false

/-- The seven bytes of a local entry. -/
def Dev.entryBytes (d : Dev) (e : Entry) : List Byte :=
  [e.tag, e.cls.code, (e.region.map (BitVec.setWidth 8)).getD 0xFF, d.entryState e,
    (nat8 e.bypass <<< 4) ||| flagBits [e.intent, e.overdue, d.entryCancel e, e.deadline.isSome]] ++
    nat16 (d.left e.deadline)

/-- Part `p` of the QUEUE reply (R168). -/
def Dev.queueReply (d : Dev) (p : Nat) : List Byte :=
  nat8 d.oqs.queue.length :: (d.stagedDemand.map (BitVec.setWidth 8)).getD 0xFF ::
    ((d.oqs.queue.drop (4 * p)).take 4).flatMap d.entryBytes

/-! ### STATION (R182) -/

/-- The code of a sync cause (R189). -/
def SyncCause.code : SyncCause → Byte
  | .join => 0
  | .resync => 1

/-- The code of the plea mark (R189). -/
def PleaMark.code : PleaMark → Byte
  | .none => 0
  | .plea => 1
  | .clear => 2

/-- The end of the listen or collect timer, whichever runs. -/
def Pc.phaseEnds (p : Pc) : Option Time := p.listenEnds <|> p.window.map Window.ends

/-- A place of the forced list in the STATION reply: handle, flags, tag, or three bytes 0 (R189). -/
def forcedBytes : Option (Byte × Option Byte) → List Byte
  | some f => [f.1, bitAt 0 f.2.isSome, orZero f.2]
  | none => [0, 0, 0]

/-- The place of the own entry in the own queue, 1 for the head, 0 where it has none (R189). -/
def Dev.ownPosition (d : Dev) : Nat :=
  match d.ht.calQueue.findIdx? (fun e => e.1 == d.pc.station) with
  | some i => i + 1
  | none => 0

/-- The STATION reply (R182). -/
def Dev.stationReply (d : Dev) : List Byte :=
  let own := d.ht.calEntry? d.pc.station
  [d.pc.station.setWidth 8, d.pc.budget.setWidth 8, nat8 d.units, d.pc.presence.code,
    flagBits [d.pc.syncCause.isSome, d.pc.cfgCause.isSome, d.pc.readyGiven, d.quarantined,
      inMask d.ht.pleas d.pc.station, own.isSome, d.ht.headTimer.isSome, d.pc.phaseEnds.isSome],
    orZero (d.pc.syncCause.map SyncCause.code), orZero (d.pc.cfgCause.map CfgCause.code),
    nat8 d.ht.forced.length] ++ forcedBytes d.ht.forced[0]? ++ forcedBytes d.ht.forced[1]? ++
  [d.ht.handleCtr, d.rs.pleaMark.code] ++ be16 (own.getD 0) ++
  [nat8 d.ownPosition, nat8 (d.left d.ht.headTimer), nat8 (d.left d.pc.phaseEnds)]

/-! ### TABLE (R183) -/

/-- Part 0: the board summary and the calibration queue. -/
def Dev.tableSummary (d : Dev) : List Byte :=
  nat8 d.units :: (nat16 (heldUnits d.ht.holdings) ++ be16 (BitVec.ofInt 16 d.free) ++ [nat8 d.ht.surge.length] ++
    be16 d.ht.pleas ++ be16 d.ht.nextTicket ++ [nat8 d.ht.calQueue.length] ++
    d.ht.calQueue.flatMap (fun e => e.1.setWidth 8 :: be16 e.2))

/-- The lease period shown: 0 once the timer is stopped (R183, R189, log 29). -/
def OwnPart.shownPeriod (p : OwnPart) : Byte := if p.leaseEnds.isSome then nat8 p.period else 0

/-- The eleven bytes of an own holding. -/
def Dev.ownBytes (d : Dev) (h : Holding) : List Byte :=
  match h.part with
  | some p =>
    [h.handle, h.cls.code, nat8 h.cls.units, h.target.byte,
      flagBits [p.tag.isSome, p.leaseEnds.isSome, p.goSent, p.done.isSome], orZero p.tag, p.state.code,
      p.shownPeriod, nat8 (d.left p.leaseEnds), h.extensions, orZero (p.done.map DoneOutcome.code)]
  | none => []

/-- The five bytes of the staged claim, shown while it is not yet delivered (log 29). -/
def Dev.claimBytes (d : Dev) : List Byte :=
  match d.biu.openClaim with
  | some c =>
    [flagBits [true, c.tag.isSome, d.biu.claimSending, c.urgent, c.cancel], c.handle, c.cls.code, c.target.byte,
      orZero c.tag]
  | none => [0, 0, 0, 0, 0]

/-- Part 1: the own holdings and the staged claim. -/
def Dev.tableOwn (d : Dev) : List Byte :=
  nat8 d.ownHoldings.length :: (d.ownHoldings.flatMap d.ownBytes ++ d.claimBytes)

/-- The nine bytes of a record. -/
def Dev.recordBytes (d : Dev) (h : Holding) : List Byte :=
  [h.station.setWidth 8, h.handle, h.cls.code, nat8 h.cls.units, h.target.byte, h.extensions, bitAt 0 h.isOwn] ++
    nat16 (d.left h.expiry)

/-- Part `p` of the TABLE reply (R183). -/
def Dev.tableReply (d : Dev) (p : Nat) : List Byte :=
  match p with
  | 0 => d.tableSummary
  | 1 => d.tableOwn
  | p + 2 => nat8 d.ht.holdings.length :: ((d.ht.holdings.drop (6 * p)).take 6).flatMap d.recordBytes

/-! ### ROSTER (R81, R183) -/

/-- The code of a roster state (R189). -/
def PeerState.code : PeerState → Byte
  | .absent => 0
  | .member => 1
  | .silent => 2

/-- The last heard time as shown: the own record has none (R81). -/
def Pc.shownHeard (p : Pc) (s : Station) : Option Time := if s = p.station then none else (p.rosterAt s).lastHeard

/-- The last applied number as shown: the own record has none (R81). -/
def Pc.shownApplied (p : Pc) (s : Station) : Option Byte :=
  if s = p.station then none else (p.rosterAt s).lastApplied

/-- The age of last heard, saturating (R189). -/
def Dev.heardAge (d : Dev) (s : Station) : Nat :=
  match d.pc.shownHeard s with
  | some t => min 65535 (ticks (d.now - t))
  | none => 0

/-- The twelve bytes of a roster record. -/
def Dev.rosterBytes (d : Dev) (s : Station) : List Byte :=
  let r := d.pc.rosterAt s
  [(d.pc.shownState s).code, flagBits [(d.pc.shownHeard s).isSome, (d.pc.shownApplied s).isSome]] ++
    nat16 (d.heardAge s) ++ [orZero (d.pc.shownApplied s), nat8 r.mismatch] ++ nat16 r.contests ++
    nat16 r.softContests ++ nat16 r.forcedSeen

/-- Part `p` of the ROSTER reply (R183). -/
def Dev.rosterReply (d : Dev) (p : Nat) : List Byte := ((stations.drop (4 * p)).take 4).flatMap d.rosterBytes

/-! ### COUNTERS (R182) -/

/-- The COUNTERS reply (R182). -/
def Dev.countersReply (d : Dev) : List Byte :=
  nat16 d.biu.totalErrors ++ [nat8 d.biu.consecErrors, nat8 d.biu.losses] ++ nat16 d.biu.undelivered ++
    nat16 d.biu.rxDiscards ++ [d.biu.seqCtr] ++ nat16 d.ht.contests ++ nat16 d.pc.resyncs ++ nat16 d.pu.lost ++
    nat16 d.pu.malformed

/-! ### QUERY (R181) -/

/-- How many parts a topic has; 0 for a topic that is not one of the six (R181). -/
def topicParts (topic : Nat) : Nat :=
  match topic with
  | 0 => 1
  | 1 => 1
  | 2 => 8
  | 3 => 4
  | 4 => 2
  | 5 => 1
  | _ => 0

/-- The content of a part of a topic (R181). -/
def Dev.replyContent (d : Dev) (topic part : Nat) : List Byte :=
  match topic with
  | 0 => d.stationReply
  | 1 => d.regionsReply
  | 2 => d.tableReply part
  | 3 => d.rosterReply part
  | 4 => d.queueReply part
  | _ => d.countersReply

/-- A COUNTERS reply clears the port error flag as it is built (R181, R182). -/
def Dev.built (topic : Nat) (d : Dev) : Dev := if topic = 5 then { d with pu.portError := false } else d

/-- A QUERY request: the reply is built and queued, or the topic or part is refused (R181). -/
def Dev.queryRequest (topic part : Byte) (d : Dev) : Dev :=
  if part.toNat < topicParts topic.toNat then
    (d.built topic.toNat).notify (.reply topic part (d.replyContent topic.toNat part.toNat))
  else d.refuse .query none .badField

/-- QUERY_STATION (R182). -/
def execQueryStation (dt : Time) (part : Byte) (s : State) : Host.Outcome State Fault Refusal :=
  s.answer (Dev.actPort (fun d => Dev.queryRequest 0 part d.quietSdo) (s.dev.elapse dt))

/-- QUERY_REGIONS (R126). -/
def execQueryRegions (dt : Time) (part : Byte) (s : State) : Host.Outcome State Fault Refusal :=
  s.answer (Dev.actPort (fun d => Dev.queryRequest 1 part d.quietSdo) (s.dev.elapse dt))

/-- QUERY_TABLE (R183). -/
def execQueryTable (dt : Time) (part : Byte) (s : State) : Host.Outcome State Fault Refusal :=
  s.answer (Dev.actPort (fun d => Dev.queryRequest 2 part d.quietSdo) (s.dev.elapse dt))

/-- QUERY_ROSTER (R183). -/
def execQueryRoster (dt : Time) (part : Byte) (s : State) : Host.Outcome State Fault Refusal :=
  s.answer (Dev.actPort (fun d => Dev.queryRequest 3 part d.quietSdo) (s.dev.elapse dt))

/-- QUERY_QUEUE (R168). -/
def execQueryQueue (dt : Time) (part : Byte) (s : State) : Host.Outcome State Fault Refusal :=
  s.answer (Dev.actPort (fun d => Dev.queryRequest 4 part d.quietSdo) (s.dev.elapse dt))

/-- QUERY_COUNTERS (R182). -/
def execQueryCounters (dt : Time) (part : Byte) (s : State) : Host.Outcome State Fault Refusal :=
  s.answer (Dev.actPort (fun d => Dev.queryRequest 5 part d.quietSdo) (s.dev.elapse dt))

end Sys2Proof.Machine
end

