-- ==== Sys2Proof/Machine/Port.lean ====
section
/-! DEFINITION. The port unit's transfers: a PUT by its bytes, PUT_MALFORMED, TRANSFER_CODE_INVALID, TAKE and PEEK
(R170 to R175). -/

namespace Sys2Proof.Machine

/-! ### PUT (R171, R175) -/

/-- A request that passed the form checks goes to the block that owns its type (R175). -/
def Dev.takeRequest (r : Request) (d : Dev) : Dev :=
  match r with
  | .setup m a b => d.setupRequest m a b
  | .submit t c g n => d.submitRequest t c g n
  | .cancel t => d.cancelRequest t
  | .done h o => d.doneRequest h o
  | .rate g => d.rateRequest g
  | .hold => d.holdRequest
  | .resume => d.resumeRequest
  | .query t p => d.queryRequest t p
  | .leave => d.leaveRequest
  | .rejoin => d.rejoinRequest

/-- A PUT that fails the form checks is discarded, counted, and sets the port error flag (R171). -/
def Dev.discardPut (d : Dev) : Dev := { d with pu.malformed := inc16 d.pu.malformed, pu.portError := true }

/-- A PUT of these complete bytes; SDO is 00h throughout (R171). -/
def Dev.put (bytes : List Byte) (d : Dev) : Dev :=
  match Request.ofPut bytes with
  | some r => d.quietSdo.takeRequest r
  | none => d.quietSdo.discardPut

/-- PUT_MALFORMED: the bytes are checked; a request that passes is taken like any other (R171, log 20). -/
def execPutMalformed (dt : Time) (bytes : List Byte) (s : State) : Host.Outcome State Fault Refusal :=
  s.answer (Dev.actPort (Dev.put bytes) (s.dev.elapse dt))

/-! ### TAKE (R172) -/

/-- A TAKE: the head notice is shifted out as far as it was clocked. Where it was clocked out whole it leaves the
queue as CS_N rises, an event of R157: at once, or behind later notices, which then join at the tail (R178, log 39).
-/
def Dev.take (clocks : TakeClocks) (d : Dev) : Dev :=
  match d.pu.notices with
  | [] => d.quietSdo
  | n :: rest =>
    let shown := { d with pu.sdo := .shifted (n.bytes.take clocks.bytes) }
    if n.bytes.length ≤ clocks.bytes then
      if clocks.through = 0 then ({ shown with pu.notices := rest, pu.takeLeft := 0 }).prompt
      else { shown with pu.takeLeft := clocks.through }
    else shown

/-- TAKE (R172). -/
def execTake (dt : Time) (clocks : TakeClocks) (s : State) : Host.Outcome State Fault Refusal :=
  s.answer (Dev.actPort (Dev.take clocks) (s.dev.elapse dt))

/-! ### PEEK (R173) -/

/-- The two bytes of a PEEK (R173, R187). -/
def Dev.summary (d : Dev) : List Byte :=
  [nat8 d.pu.notices.length,
    (d.pc.presence.code <<< 4) ||| flagBits [d.pu.portError, d.quarantined, d.rs.hold, d.rs.urgency == .urgent]]

/-- A PEEK that clocks out this many bytes after its code; it changes nothing but what SDO carried. -/
def Dev.peek (clocked : Nat) (d : Dev) : Dev := { d with pu.sdo := .shifted (d.summary.take clocked) }

/-- PEEK: no state of the part changes, so no step closes (R173). -/
def execPeek (dt : Time) (clocked : Nat) (s : State) : Host.Outcome State Fault Refusal :=
  s.answer (Dev.onPort (Dev.peek clocked) (s.dev.elapse dt))

/-! ### Any other code (R170) -/

/-- A transfer by its code: none where fewer than eight bits of it came, which is ignored with no count; one of the
three codes is that transfer with no byte after it (log 20); any other raises the malformed-request count alone. -/
def Dev.transfer (code : Option Byte) (d : Dev) : Dev :=
  match code with
  | none => d.quietSdo
  | some c =>
    match c.toNat with
    | 0xE1 => d.put []
    | 0xE2 => d.take { bytes := 0, through := 0 }
    | 0xE3 => d.peek 0
    | _ => { d.quietSdo with pu.malformed := inc16 d.pu.malformed }

/-- TRANSFER_CODE_INVALID (R170). -/
def execTransferCodeInvalid (dt : Time) (code : Option Byte) (s : State) : Host.Outcome State Fault Refusal :=
  s.answer (Dev.actPort (Dev.transfer code) (s.dev.elapse dt))

end Sys2Proof.Machine
end

