-- ==== Sys2Proof/Machine/Received.lean ====
section
/-! DEFINITION. Frames from the line: the receiver's decision, what the holding table and then the presence controller
do with each kind, and the commands FRAME_REJECTED, FRAME_BEARING_OWN_NUMBER and one per kind received (R15, R18, R20,
R22, R23, R35 to R38, R82, R87 to R95, R97, R101, R133, R143 to R145, R151, R186). -/

namespace Sys2Proof.Machine

/-! ### The holding table (R15 to R23) -/

/-- A received claim is a soft contest, judged on the replica as it stands before it is stored (R23). -/
def Dev.softContest (d : Dev) (s : Station) (urgent : Bool) (c : Cls) : Bool :=
  (if urgent then decide (d.free < (c.units : Int)) else decide (d.free - Config.reserve < (c.units : Int)))
    || (otherPlea d.ht.pleas s && c != .rfb)
    || decide (12 ≤ d.ht.surge.length)
    || (urgent && c != .rfb)

/-- A received claim finds no room: 32 records, none with its key (R15, R22). -/
def listFull (l : List Holding) (s : Station) (h : Byte) : Bool :=
  decide (Config.holdingsCap ≤ l.length) && (findHolding s h l).isNone

/-- A peer's claim is applied: soft contest, surge entry, record, contest (R15). -/
def Dev.claimApplied (s : Station) (urgent : Bool) (h : Byte) (c : Cls) (t : Target) (d : Dev) : Dev :=
  let d := if d.softContest s urgent c then d.modRoster s (fun r => { r with softContests := inc16 r.softContests }) else d
  let full := listFull d.ht.holdings s h
  let d := { d with
    ht.surge := surgeAdd d.now d.ht.surge,
    ht.holdings := if full then d.ht.holdings else insertHolding (claimRecord d.now s h c t) d.ht.holdings }
  let d := if full || d.overfull then d.contest s else d
  d.prompt

/-- A peer's RELEASE is applied (R18). -/
def Dev.releaseApplied (s : Station) (h : Byte) (o : RelOutcome) (d : Dev) : Dev :=
  match findHolding s h d.ht.holdings with
  | none => d
  | some x =>
    let d := { d with ht.holdings := dropHolding s h d.ht.holdings,
                      ht.calQueue := if x.cls = Cls.cal then calDrop s d.ht.calQueue else d.ht.calQueue }
    let d := if o = .forced then d.modRoster s (fun r => { r with forcedSeen := inc16 r.forcedSeen }) else d
    d.prompt

/-- Whether a received EXTEND raises a record: its number is 1 or 2 and not less than the record's extensions
(R20). -/
def extendCounts (n : Byte) (x : Holding) : Bool := (n == 1 || n == 2) && decide (x.extensions.toNat ≤ n.toNat)

/-- A peer's EXTEND is applied; one for an absent record, or whose number does not count, is ignored (R20). -/
def Dev.extendApplied (s : Station) (h n : Byte) (d : Dev) : Dev :=
  match findHolding s h d.ht.holdings with
  | none => d
  | some x =>
    if extendCounts n x then
      ({ d with ht.holdings := mapHolding s h (Holding.extendTo n) d.ht.holdings }).prompt
    else d

/-- What the holding table takes from a frame before the presence controller sees it (R38). -/
def Dev.tableApply (s : Station) (b : Body) (d : Dev) : Dev :=
  match b with
  | .claim urgent h c _ t =>
    match Cls.ofCode c with
    | some c => d.claimApplied s urgent h c (Target.ofByte t)
    | none => d
  | .release h o => d.releaseApplied s h (RelOutcome.ofCode o)
  | .extend h n => d.extendApplied s h n
  | .plea => ({ d with ht.pleas := pleaAdd s d.ht.pleas }).prompt
  | .clear => ({ d with ht.pleas := pleaDrop s d.ht.pleas }).prompt
  | .intent a t =>
    match IntentAction.ofCode a with
    | some a => ({ d with ht := d.ht.applyIntent s a t }).prompt
    | none => d
  | .holding _ _ _ _ _ _ | .summary _ _ _ | .resync | .beacon _ _ | .join _ _ | .leave => d

/-! ### The presence controller (R82, R87 to R95, R97) -/

/-- A HOLDING is counted in its sender's tally, up to the announced number and to 2, once its SUMMARY was seen
(R90, log 35). -/
def Tally.countHolding (t : Tally) : Tally :=
  if t.summarySeen then { t with counted := min (t.counted + 1) (min t.announced 2) } else t

/-- A HOLDING answer is applied where a board view is kept: it confirms the record under its key, stores a new one, or
finds the list full (R90). -/
def Dev.holdingApplied (s : Station) (h c u t e r : Byte) (d : Dev) : Dev :=
  match Cls.ofCode c with
  | none => d
  | some cls =>
    if u.toNat ≠ cls.units then d
    else
      let d :=
        match findHolding s h d.ht.holdings with
        | some x =>
          { d with ht.holdings := insertHolding (answerRecord d.now s h x.cls x.target e r) d.ht.holdings }
        | none =>
          if d.ht.holdings.length < Config.holdingsCap then
            { d with ht.holdings := insertHolding (answerRecord d.now s h cls (Target.ofByte t) e r) d.ht.holdings }
          else d.contest s
      let d := if d.pc.presence = .syncing then d.modTally s Tally.countHolding else d
      d.prompt

/-- No SUMMARY has been applied since the window opened (R89). -/
def Window.noSummary (w : Window) : Bool := stations.all (fun s => !(w.tallyAt s).summarySeen)

/-- The tally a SUMMARY leaves (R89). -/
def Tally.summarised (n : Nat) (t : Tally) : Tally := { t with summarySeen := true, announced := n, counted := 0 }

/-- A SUMMARY is applied in SYNCING: the plea, the calibration entry by distance, next-ticket from the first of the
window, and the tally (R89, R151). -/
def Dev.summaryApplied (s : Station) (flags : Byte) (ticket next : Word16) (d : Dev) : Dev :=
  if d.pc.presence = .syncing then
    let d := { d with
      ht.pleas := if flags.getLsbD 7 then pleaAdd s d.ht.pleas else pleaDrop s d.ht.pleas,
      ht.calQueue := if flags.getLsbD 6 then calPlace d.ht.nextTicket s ticket d.ht.calQueue
                     else calDrop s d.ht.calQueue }
    let d :=
      match d.pc.window with
      | some w => if w.noSummary then { d with ht.nextTicket := next } else d
      | none => d
    d.modTally s (Tally.summarised (flags.extractLsb' 4 2).toNat)
  else d

/-- A BEACON's digest is compared in MEMBER where its syncing flag is clear; the second mismatch in a row starts a
resync (R93). -/
def Dev.beaconApplied (s : Station) (digest : Word16) (flags : Byte) (d : Dev) : Dev :=
  if d.pc.presence = .member ∧ flags.getLsbD 7 = false ∧ (d.pc.rosterAt s).state = .member then
    if digest = d.ht.digest then d.modRoster s (fun r => { r with mismatch := 0 })
    else
      let n := (d.pc.rosterAt s).mismatch + 1
      let d := d.modRoster s (fun r => { r with mismatch := n })
      if 2 ≤ n then d.startResync else d
  else d

/-- A LEAVE resets its sender's record, marks its tally excluded and drops its part of the board view (R97). -/
def Dev.leaveApplied (s : Station) (d : Dev) : Dev :=
  ((d.modRoster s RosterRec.cleared).excludeTally s).dropStation s

/-- A JOIN that passed its checks (R87). -/
def Dev.joinApplied (s : Station) (seq : Byte) (d : Dev) : Dev :=
  (((d.modRoster s (RosterRec.joined d.now seq)).excludeTally s).dropStation s).answerIfDue

/-- What the presence controller does with a frame handed over, the roster update first (R38, R82). -/
def Dev.presenceApply (hd : Head) (b : Body) (d : Dev) : Dev :=
  let s := hd.station
  let heard := d.modRoster s (RosterRec.hear d.now hd.seq)
  match b with
  | .join _ _ => d.joinApplied s hd.seq
  | .leave => heard.leaveApplied s
  | .beacon g f => heard.beaconApplied s g f
  | .resync => heard.answerIfDue
  | .summary f t n => heard.summaryApplied s f t n
  | .holding h c u t e r => if d.pc.presence.keepsView then heard.holdingApplied s h c u t e r else heard
  | .release _ _ | .extend _ _ | .claim _ _ _ _ _ | .plea | .clear | .intent _ _ => heard

/-! ### The receiver's decision (R35 to R37, R101) -/

/-- A frame that fails one of checks 1 to 5 of R35 is discarded and counted. -/
def Dev.discardFrame (d : Dev) : Dev :=
  { d with biu.busFree := false, biu.line := .silent, biu.rxDiscards := inc16 d.biu.rxDiscards }

/-- The configuration fault a frame shows: a JOIN's version first, then the budget code of a JOIN, BEACON or SUMMARY
(R101). -/
def cfgCheck (budget : BitVec 2) (b : Body) : Option CfgCause :=
  match b with
  | .join bc v =>
    if v ≠ 1 then some .versionMismatch else if budgetBits bc ≠ budget then some .budgetMismatch else none
  | .beacon _ f => if budgetBits f ≠ budget then some .budgetMismatch else none
  | .summary f _ _ => if budgetBits f ≠ budget then some .budgetMismatch else none
  | .release _ _ | .extend _ _ | .claim _ _ _ _ _ | .plea | .clear | .intent _ _ | .holding _ _ _ _ _ _
  | .resync | .leave => none

/-- A frame of the own number, reported by the BIU (R35, R101); in CONFIG_FAULT nothing more follows. -/
def Dev.ownNumber (d : Dev) : Dev :=
  let d := { d with biu.busFree := false, biu.line := .silent }
  if d.pc.presence = .configFault then d else d.configFault .duplicateStation

/-- Whether a frame is a repeat of the one last applied from its sender (R37). -/
def Dev.isRepeat (d : Dev) (hd : Head) : Bool :=
  !hd.fresh && (d.pc.rosterAt hd.station).lastApplied == some hd.seq

/-- Whether the content is a JOIN. -/
def isJoinFrame : Body → Bool
  | .join _ _ => true
  | _ => false

/-- A frame that passed check 6 is applied: the holding table where a view is kept, then the presence controller, then
the test of the answers (R37, R38, R91). -/
def Dev.applyFrame (hd : Head) (b : Body) (d : Dev) : Dev :=
  let d := if d.pc.presence.keepsView then d.tableApply hd.station b else d
  (d.presenceApply hd b).checkAnswers

/-- The station's own slot, driven dominant in the acknowledgement field (R35, R185). -/
def Dev.driveSlot (d : Dev) : Dev := { d with biu.line := .ack (slotBytes (maskBit d.pc.station)) }

/-- A frame read from the line, its checks 1 to 4 passed: check 5, CONFIG_FAULT's deafness, checks 7 and 6, a repeat
that is acknowledged again, the configuration checks, and application with acknowledgement (R35 to R37, R101). -/
def Dev.receive (hd : Head) (b : Body) (d : Dev) : Dev :=
  if b.costOk then
    let d := { d with biu.busFree := false, biu.line := .silent }
    if d.pc.presence = .configFault then d
    else if hd.station = d.pc.station then d.ownNumber
    else if (d.pc.rosterAt hd.station).state = .silent ∧ isJoinFrame b = false then d
    else if d.isRepeat hd then
      d.driveSlot.modRoster hd.station (fun r => { r with lastHeard := some d.now })
    else
      match cfgCheck d.pc.budget b with
      | some c => d.configFault c
      | none => Dev.applyFrame hd b d.driveSlot
  else d.discardFrame

/-- FRAME_REJECTED: the frame as the line carried it fails one of checks 1 to 5 and is discarded; one that passes them
all is received like any frame (R35, log 20). -/
def Dev.rawFrame (raw : RawFrame) (d : Dev) : Dev :=
  match raw.read with
  | none => d.discardFrame
  | some (hd, b) => d.receive hd b

/-! ### The commands, each at the end of the frame's CRC -/

/-- FRAME_REJECTED (R35). -/
def execFrameRejected (dt : Time) (raw : RawFrame) (s : State) : Host.Outcome State Fault Refusal :=
  s.answer (Dev.act always (Dev.rawFrame raw) (s.dev.elapse dt))

/-- CLAIM_RECEIVED (R15). -/
def execClaimReceived (dt : Time) (head : Head) (handle cls units target : Byte) (s : State) :
    Host.Outcome State Fault Refusal :=
  s.answer (Dev.act always (Dev.receive head (.claim false handle cls units target)) (s.dev.elapse dt))

/-- URGENT_CLAIM_RECEIVED (R15, R23). -/
def execUrgentClaimReceived (dt : Time) (head : Head) (handle cls units target : Byte) (s : State) :
    Host.Outcome State Fault Refusal :=
  s.answer (Dev.act always (Dev.receive head (.claim true handle cls units target)) (s.dev.elapse dt))

/-- RELEASE_RECEIVED (R18, R186). -/
def execReleaseReceived (dt : Time) (head : Head) (handle outcome : Byte) (s : State) :
    Host.Outcome State Fault Refusal :=
  s.answer (Dev.act always (Dev.receive head (.release handle outcome)) (s.dev.elapse dt))

/-- EXTEND_RECEIVED (R20). -/
def execExtendReceived (dt : Time) (head : Head) (handle number : Byte) (s : State) :
    Host.Outcome State Fault Refusal :=
  s.answer (Dev.act always (Dev.receive head (.extend handle number)) (s.dev.elapse dt))

/-- PLEA_RECEIVED (R133). -/
def execPleaReceived (dt : Time) (head : Head) (s : State) : Host.Outcome State Fault Refusal :=
  s.answer (Dev.act always (Dev.receive head .plea) (s.dev.elapse dt))

/-- CLEAR_RECEIVED (R133). -/
def execClearReceived (dt : Time) (head : Head) (s : State) : Host.Outcome State Fault Refusal :=
  s.answer (Dev.act always (Dev.receive head .clear) (s.dev.elapse dt))

/-- INTENT_ENQUEUE_RECEIVED (R143). -/
def execIntentEnqueueReceived (dt : Time) (head : Head) (ticket : Word16) (s : State) :
    Host.Outcome State Fault Refusal :=
  s.answer (Dev.act always (Dev.receive head (.intent IntentAction.enqueue.code ticket)) (s.dev.elapse dt))

/-- INTENT_REQUEUE_RECEIVED (R144). -/
def execIntentRequeueReceived (dt : Time) (head : Head) (ticket : Word16) (s : State) :
    Host.Outcome State Fault Refusal :=
  s.answer (Dev.act always (Dev.receive head (.intent IntentAction.requeue.code ticket)) (s.dev.elapse dt))

/-- INTENT_WITHDRAW_RECEIVED (R145). -/
def execIntentWithdrawReceived (dt : Time) (head : Head) (ticket : Word16) (s : State) :
    Host.Outcome State Fault Refusal :=
  s.answer (Dev.act always (Dev.receive head (.intent IntentAction.withdraw.code ticket)) (s.dev.elapse dt))

/-- HOLDING_RECEIVED (R90). -/
def execHoldingReceived (dt : Time) (head : Head) (handle cls units target extensions remaining : Byte) (s : State) :
    Host.Outcome State Fault Refusal :=
  s.answer
    (Dev.act always (Dev.receive head (.holding handle cls units target extensions remaining)) (s.dev.elapse dt))

/-- SUMMARY_RECEIVED (R89, R151). -/
def execSummaryReceived (dt : Time) (head : Head) (flags : Byte) (ticket next : Word16) (s : State) :
    Host.Outcome State Fault Refusal :=
  s.answer (Dev.act always (Dev.receive head (.summary flags ticket next)) (s.dev.elapse dt))

/-- RESYNC_RECEIVED (R95). -/
def execResyncReceived (dt : Time) (head : Head) (s : State) : Host.Outcome State Fault Refusal :=
  s.answer (Dev.act always (Dev.receive head .resync) (s.dev.elapse dt))

/-- BEACON_RECEIVED (R93). -/
def execBeaconReceived (dt : Time) (head : Head) (digest : Word16) (flags : Byte) (s : State) :
    Host.Outcome State Fault Refusal :=
  s.answer (Dev.act always (Dev.receive head (.beacon digest flags)) (s.dev.elapse dt))

/-- JOIN_RECEIVED (R87, R101). -/
def execJoinReceived (dt : Time) (head : Head) (budget version : Byte) (s : State) :
    Host.Outcome State Fault Refusal :=
  s.answer (Dev.act always (Dev.receive head (.join budget version)) (s.dev.elapse dt))

/-- LEAVE_RECEIVED (R97). -/
def execLeaveReceived (dt : Time) (head : Head) (s : State) : Host.Outcome State Fault Refusal :=
  s.answer (Dev.act always (Dev.receive head .leave) (s.dev.elapse dt))

/-- FRAME_BEARING_OWN_NUMBER (R35, R101). -/
def execFrameBearingOwnNumber (dt : Time) (s : State) : Host.Outcome State Fault Refusal :=
  s.answer (Dev.act always Dev.ownNumber (s.dev.elapse dt))

end Sys2Proof.Machine
end

