-- ==== Sys2Proof/Machine/Reset.lean ====
section
/-! DEFINITION. The resets: POWER_ON_RESET, LINE_RESET and RESET_RELEASE (R84, R103, R106, R127, R184, R190). -/

namespace Sys2Proof.Machine

/-- POWER_ON_RESET: the part is held in OFFLINE with every block in its power-on state (R103). -/
def execPowerOnReset (s : State) : Host.Outcome State Fault Refusal := s.answer (Dev.held .powerOn)

/-- LINE_RESET: driving stops, any transfer is abandoned, and the part is held in OFFLINE with every block in its
line-reset state (R36, R78, R103, R170). Where RST_N falls while power-on reset still holds the part, the spec does
not say which reset RESET reports; the model takes the later command, this one (log 40). -/
def execLineReset (s : State) : Host.Outcome State Fault Refusal := s.answer (Dev.held .line)

/-- The accrual timer of an ACTIVE region starts (R106). -/
def Region.startTimer (ends : Time) (r : Region) : Region := if r.exempt then r else { r with timer := .running ends }

/-- The accrual timers start at staggered values (R106). -/
def Rs.startTimers (now : Time) (r : Rs) : Rs :=
  regionNos.foldl (fun r n => r.modRegion n (Region.startTimer (now + staggered n.toNat))) r

/-- The release of reset: the straps are sampled, CS_N is looked at (R170), the RESET notice joins, the accrual timers
start, and LISTENING is entered with its timer and no STATE notice (R84, R106, R184, log 8). -/
def Dev.release (sid : BitVec 4) (pins : ReleasePins) (d : Dev) : Dev :=
  ({ d with
      pc.station := sid, pc.budget := pins.budget, pc.presence := .listening, pc.listenEnds := some (d.now + listenTime),
      rs := d.rs.startTimers d.now, pu.csLow := pins.csLow }).notify (.reset d.resetKind)

/-- RESET_RELEASE: taken while reset is held (R84). -/
def execResetRelease (dt : Time) (sid : BitVec 4) (pins : ReleasePins) (s : State) :
    Host.Outcome State Fault Refusal :=
  let d := s.dev.elapse dt
  s.answer (if d.pc.presence = .offline then d.release sid pins else d)

end Sys2Proof.Machine
end

