-- ==== Sys2Proof/Machine/Dispatch.lean ====
section
/-! DEFINITION. The meaning of every command: one arm per row of spec/opcode_table.json. -/

namespace Sys2Proof.Machine

/-- The effect of a command on the part; the commands that wait are not touched. -/
def exec (i : Instr) (s : State) : Host.Outcome State Fault Refusal :=
  match i with
  | .powerOnReset => Sys2Proof.Machine.execPowerOnReset s
  | .lineReset => Sys2Proof.Machine.execLineReset s
  | .resetRelease dt sid pins => Sys2Proof.Machine.execResetRelease dt sid pins s
  | .busFree dt => Sys2Proof.Machine.execBusFree dt s
  | .arbitrationLoss dt => Sys2Proof.Machine.execArbitrationLoss dt s
  | .bitError dt => Sys2Proof.Machine.execBitError dt s
  | .sendComplete dt acks => Sys2Proof.Machine.execSendComplete dt acks s
  | .frameRejected dt raw => Sys2Proof.Machine.execFrameRejected dt raw s
  | .claimReceived dt head handle cls units target => Sys2Proof.Machine.execClaimReceived dt head handle cls units target s
  | .urgentClaimReceived dt head handle cls units target => Sys2Proof.Machine.execUrgentClaimReceived dt head handle cls units target s
  | .releaseReceived dt head handle outcome => Sys2Proof.Machine.execReleaseReceived dt head handle outcome s
  | .extendReceived dt head handle number => Sys2Proof.Machine.execExtendReceived dt head handle number s
  | .pleaReceived dt head => Sys2Proof.Machine.execPleaReceived dt head s
  | .clearReceived dt head => Sys2Proof.Machine.execClearReceived dt head s
  | .intentEnqueueReceived dt head ticket => Sys2Proof.Machine.execIntentEnqueueReceived dt head ticket s
  | .intentRequeueReceived dt head ticket => Sys2Proof.Machine.execIntentRequeueReceived dt head ticket s
  | .intentWithdrawReceived dt head ticket => Sys2Proof.Machine.execIntentWithdrawReceived dt head ticket s
  | .holdingReceived dt head handle cls units target extensions remaining => Sys2Proof.Machine.execHoldingReceived dt head handle cls units target extensions remaining s
  | .summaryReceived dt head flags ticket next => Sys2Proof.Machine.execSummaryReceived dt head flags ticket next s
  | .resyncReceived dt head => Sys2Proof.Machine.execResyncReceived dt head s
  | .beaconReceived dt head digest flags => Sys2Proof.Machine.execBeaconReceived dt head digest flags s
  | .joinReceived dt head budget version => Sys2Proof.Machine.execJoinReceived dt head budget version s
  | .leaveReceived dt head => Sys2Proof.Machine.execLeaveReceived dt head s
  | .listenTimerExpiry => Sys2Proof.Machine.execListenTimerExpiry s
  | .collectTimerExpiry => Sys2Proof.Machine.execCollectTimerExpiry s
  | .beaconTimerExpiry => Sys2Proof.Machine.execBeaconTimerExpiry s
  | .silence station => Sys2Proof.Machine.execSilence station s
  | .peerExpiry station handle => Sys2Proof.Machine.execPeerExpiry station handle s
  | .surgeEntryAgeing => Sys2Proof.Machine.execSurgeEntryAgeing s
  | .leaseTimerExpiry handle => Sys2Proof.Machine.execLeaseTimerExpiry handle s
  | .accrualTimerExpiry region => Sys2Proof.Machine.execAccrualTimerExpiry region s
  | .headTimerExpiry => Sys2Proof.Machine.execHeadTimerExpiry s
  | .selectionTimerExpiry => Sys2Proof.Machine.execSelectionTimerExpiry s
  | .deadlinePasses tag => Sys2Proof.Machine.execDeadlinePasses tag s
  | .ownHoldingsDrained => Sys2Proof.Machine.execOwnHoldingsDrained s
  | .linkFaultRecovery => Sys2Proof.Machine.execLinkFaultRecovery s
  | .setup dt modes start stop => Sys2Proof.Machine.execSetup dt modes start stop s
  | .submit dt tag cls region notAfter => Sys2Proof.Machine.execSubmit dt tag cls region notAfter s
  | .cancel dt tag => Sys2Proof.Machine.execCancel dt tag s
  | .done dt handle outcome => Sys2Proof.Machine.execDone dt handle outcome s
  | .rate dt grade => Sys2Proof.Machine.execRate dt grade s
  | .hold dt => Sys2Proof.Machine.execHold dt s
  | .resume dt => Sys2Proof.Machine.execResume dt s
  | .queryStation dt part => Sys2Proof.Machine.execQueryStation dt part s
  | .queryRegions dt part => Sys2Proof.Machine.execQueryRegions dt part s
  | .queryTable dt part => Sys2Proof.Machine.execQueryTable dt part s
  | .queryRoster dt part => Sys2Proof.Machine.execQueryRoster dt part s
  | .queryQueue dt part => Sys2Proof.Machine.execQueryQueue dt part s
  | .queryCounters dt part => Sys2Proof.Machine.execQueryCounters dt part s
  | .leaveRequest dt => Sys2Proof.Machine.execLeaveRequest dt s
  | .rejoin dt => Sys2Proof.Machine.execRejoin dt s
  | .putMalformed dt bytes => Sys2Proof.Machine.execPutMalformed dt bytes s
  | .transferCodeInvalid dt code => Sys2Proof.Machine.execTransferCodeInvalid dt code s
  | .take dt clocks => Sys2Proof.Machine.execTake dt clocks s
  | .peek dt clocked => Sys2Proof.Machine.execPeek dt clocked s
  | .frameBearingOwnNumber dt => Sys2Proof.Machine.execFrameBearingOwnNumber dt s

end Sys2Proof.Machine
end

