-- ==== Sys2Proof/WellFormed.lean ====
section
/-! DEFINITION. Which commands can be events of the hardware as their rows name them. The meanings are total:
what each does on the commands shut out here is said in its own docstring. -/

namespace Sys2Proof

/-- A command is well formed when its operands can stand in the event its row names: a CLAIM row carries
a claim that passes check 5 of R35, a FRAME_REJECTED row a frame that fails a check, a PUT_MALFORMED row a
request that fails the form checks of R171, and a TRANSFER_CODE_INVALID row none of the three codes. -/
def Instr.wf : Instr → Bool
  | .frameRejected _ raw => raw.read.isNone
  | .claimReceived _ _ _ c u _ => claimCostOk c u
  | .urgentClaimReceived _ _ _ c u _ => claimCostOk c u
  | .putMalformed _ bytes => (Request.ofPut bytes).isNone
  | .transferCodeInvalid _ code => code ≠ some 0xE1#8 && code ≠ some 0xE2#8 && code ≠ some 0xE3#8
  | .powerOnReset | .lineReset | .resetRelease _ _ _ | .busFree _ | .arbitrationLoss _ | .bitError _
  | .sendComplete _ _ | .releaseReceived _ _ _ _ | .extendReceived _ _ _ _ | .pleaReceived _ _
  | .clearReceived _ _ | .intentEnqueueReceived _ _ _ | .intentRequeueReceived _ _ _
  | .intentWithdrawReceived _ _ _ | .holdingReceived _ _ _ _ _ _ _ _ | .summaryReceived _ _ _ _ _
  | .resyncReceived _ _ | .beaconReceived _ _ _ _ | .joinReceived _ _ _ _ | .leaveReceived _ _
  | .listenTimerExpiry | .collectTimerExpiry | .beaconTimerExpiry | .silence _ | .peerExpiry _ _
  | .surgeEntryAgeing | .leaseTimerExpiry _ | .accrualTimerExpiry _ | .headTimerExpiry
  | .selectionTimerExpiry | .deadlinePasses _ | .ownHoldingsDrained | .linkFaultRecovery
  | .setup _ _ _ _ | .submit _ _ _ _ _ | .cancel _ _ | .done _ _ _ | .rate _ _ | .hold _ | .resume _
  | .queryStation _ _ | .queryRegions _ _ | .queryTable _ _ | .queryRoster _ _ | .queryQueue _ _
  | .queryCounters _ _ | .leaveRequest _ | .rejoin _ | .take _ _ | .peek _ _
  | .frameBearingOwnNumber _ => true

end Sys2Proof
end

