-- ==== Sys2Proof/Safety.lean ====
section
/-! DEFINITION. The terms the statements use: the bounds and invariants of the manual, what a reset leaves, which time
and which frame a command brings, and when a frame, a transmission or a transfer is taken. -/

namespace Sys2Proof.Machine

/-! ### When a command acts -/

/-- The part is not held in reset. -/
abbrev Dev.Up (d : Dev) : Prop := d.pc.presence ≠ .offline

/-- The part takes the transfers of the controller: it is not held in reset, and CS_N has not been low since before
reset was released (R170). -/
abbrev Dev.TakesTransfers (d : Dev) : Prop := d.Up ∧ d.pu.csLow = false

/-- The time a command from outside brings with it; the resets and the moments of the part's own bring none (log 1). -/
def timeOf (c : Instr) : Option Time :=
  match c with
  | .resetRelease dt _ _ | .busFree dt | .arbitrationLoss dt | .bitError dt | .sendComplete dt _
  | .frameRejected dt _ | .claimReceived dt _ _ _ _ _ | .urgentClaimReceived dt _ _ _ _ _ | .releaseReceived dt _ _ _
  | .extendReceived dt _ _ _ | .pleaReceived dt _ | .clearReceived dt _ | .intentEnqueueReceived dt _ _
  | .intentRequeueReceived dt _ _ | .intentWithdrawReceived dt _ _ | .holdingReceived dt _ _ _ _ _ _ _
  | .summaryReceived dt _ _ _ _ | .resyncReceived dt _ | .beaconReceived dt _ _ _ | .joinReceived dt _ _ _
  | .leaveReceived dt _ | .setup dt _ _ _ | .submit dt _ _ _ _ | .cancel dt _ | .done dt _ _ | .rate dt _ | .hold dt
  | .resume dt | .queryStation dt _ | .queryRegions dt _ | .queryTable dt _ | .queryRoster dt _ | .queryQueue dt _
  | .queryCounters dt _ | .leaveRequest dt | .rejoin dt | .putMalformed dt _ | .transferCodeInvalid dt _ | .take dt _
  | .peek dt _ | .frameBearingOwnNumber dt => some dt
  | _ => none

/-- Whether a command is a transfer on the controller port (R170). -/
def isTransfer (c : Instr) : Bool :=
  match c with
  | .setup _ _ _ _ | .submit _ _ _ _ _ | .cancel _ _ | .done _ _ _ | .rate _ _ | .hold _ | .resume _
  | .queryStation _ _ | .queryRegions _ _ | .queryTable _ _ | .queryRoster _ _ | .queryQueue _ _ | .queryCounters _ _
  | .leaveRequest _ | .rejoin _ | .putMalformed _ _ | .transferCodeInvalid _ _ | .take _ _ | .peek _ _ => true
  | _ => false

/-- The end of the timer whose moment a command is, where that timer runs (log 2). -/
def Dev.endOf (c : Instr) (d : Dev) : Option Time :=
  match c with
  | .listenTimerExpiry => d.pc.listenEnds
  | .collectTimerExpiry => d.pc.window.map Window.ends
  | .beaconTimerExpiry => d.pc.beaconEnds
  | .silence x => d.silenceAt x
  | .peerExpiry x h => d.expiryAt x h
  | .surgeEntryAgeing => d.ht.surge.head?.map (fun t => t + us 1000)
  | .leaseTimerExpiry h => d.leaseAt h
  | .accrualTimerExpiry r => d.accrualAt r
  | .headTimerExpiry => d.ht.headTimer
  | .selectionTimerExpiry => d.oqs.selTimer
  | .deadlinePasses t => d.deadlineAt t
  | _ => none

/-- The time and the frame that the command of a received frame brings. -/
def frameOf (c : Instr) : Option (Time × Head × Body) :=
  match c with
  | .claimReceived dt hd h c u t => some (dt, hd, .claim false h c u t)
  | .urgentClaimReceived dt hd h c u t => some (dt, hd, .claim true h c u t)
  | .releaseReceived dt hd h o => some (dt, hd, .release h o)
  | .extendReceived dt hd h n => some (dt, hd, .extend h n)
  | .pleaReceived dt hd => some (dt, hd, .plea)
  | .clearReceived dt hd => some (dt, hd, .clear)
  | .intentEnqueueReceived dt hd t => some (dt, hd, .intent 0 t)
  | .intentWithdrawReceived dt hd t => some (dt, hd, .intent 1 t)
  | .intentRequeueReceived dt hd t => some (dt, hd, .intent 2 t)
  | .holdingReceived dt hd h c u t e r => some (dt, hd, .holding h c u t e r)
  | .summaryReceived dt hd f t n => some (dt, hd, .summary f t n)
  | .resyncReceived dt hd => some (dt, hd, .resync)
  | .beaconReceived dt hd g f => some (dt, hd, .beacon g f)
  | .joinReceived dt hd b v => some (dt, hd, .join b v)
  | .leaveReceived dt hd => some (dt, hd, .leave)
  | _ => none

/-- The state a command from outside leaves when its effect gives `d`: the step is closed (log 11). -/
def State.after (s : State) (dt : Time) (d : Dev) : State := { s with dev := Dev.close (s.dev.elapse dt) d }

/-- The state that the end of a timer at `t` leaves when its effect gives `d` (log 2). -/
def State.afterEnd (s : State) (t : Time) (d : Dev) : State := { s with dev := Dev.close (s.dev.elapseTo t) d }

/-- The state a transfer of the controller leaves when its effect gives `d`: any TAKE still under way has ended before
it, and the step is closed (R172, logs 11, 39). -/
def State.afterPort (s : State) (dt : Time) (d : Dev) : State :=
  { s with dev := Dev.close (s.dev.elapse dt).endTake d }

/-- The part as a request finds it: time has passed, any TAKE still under way has ended, and SDO was 00h throughout the
PUT (R171, R172). -/
def Dev.asked (d : Dev) (dt : Time) : Dev := (d.elapse dt).endTake.quietSdo

/-- A frame with this head passes checks 6 and 7 of R35 and is applied under R37, outside CONFIG_FAULT and OFFLINE. -/
abbrev Dev.Hears (d : Dev) (hd : Head) : Prop :=
  d.pc.presence.keepsRoster = true ∧ hd.station ≠ d.pc.station ∧ (d.pc.rosterAt hd.station).state ≠ .silent ∧
    d.isRepeat hd = false

/-- A JOIN with this head is applied outside CONFIG_FAULT and OFFLINE, a SILENT sender's too (R35, R37, R87). -/
abbrev Dev.HearsJoin (d : Dev) (hd : Head) : Prop :=
  d.pc.presence.keepsRoster = true ∧ hd.station ≠ d.pc.station ∧ d.isRepeat hd = false

/-- What every applied frame but a JOIN does: its slot is driven, and the roster is updated (R35, R82). -/
def Dev.heard (hd : Head) (d : Dev) : Dev :=
  Dev.modRoster hd.station (RosterRec.hear d.now hd.seq) (Dev.driveSlot { d with biu.busFree := false })

/-- An attempt of a frame is under way. -/
abbrev Dev.Sends (d : Dev) (f : InHand) : Prop := d.biu.inHand = some f ∧ f.sending = true

/-- The slots of stations that have acknowledged a frame, once these are added: the members' alone (R39). -/
def Dev.ackedWith (d : Dev) (f : InHand) (acks : BitVec 16) : BitVec 16 := f.acked ||| (acks &&& d.pc.memberMask)

/-- A send of a frame not yet delivered is under way, its first or a repeat, and these slots make it delivered and
finished at once: every other member has then acknowledged it (R39, R40). -/
abbrev Dev.AllAcknowledge (d : Dev) (f : InHand) (acks : BitVec 16) : Prop :=
  d.Sends f ∧ f.delivered = false ∧ d.pc.memberMask &&& ~~~(d.ackedWith f acks) = 0#16

/-- The part at the end of the acknowledgement field of a send that made a frame acknowledged by all: the counts are
cleared and the frame in hand is delivered (R32, R34, R39). -/
def Dev.sentToAll (f : InHand) (acks : BitVec 16) (d : Dev) : Dev :=
  { d with biu.losses := 0, biu.consecErrors := 0, biu.line := .silent,
           biu.inHand := some { f with sending := false, sends := f.sends + 1, acked := d.ackedWith f acks,
                                       delivered := true } }

/-- A frame that is not a claim is finished: it leaves its slot (R40, R42). -/
def Dev.finished (r : SlotRef) (d : Dev) : Dev :=
  { d with biu.inHand := none, biu.outbox := d.biu.outbox.remove r }

/-- Every frame the BIU could offer now, one of each kind (R46). -/
def Dev.candidates (d : Dev) : List Offer :=
  [d.biu.outbox.offerRelease, d.biu.outbox.offerExtend, d.offerClaim true, d.biu.outbox.offerPlea, d.offerClaim false,
   d.offerIntent, d.offerHolding, d.offerSummary, d.biu.outbox.offerResync, d.offerBeacon, d.offerJoin .join,
   d.offerJoin .leave].filterMap id

/-! ### What some effects leave -/

/-- A claim unstaged: its slot is empty and its reserved place free, its entry is QUEUED again or its region's mark
cleared, and a selection is due (R51, R59, R157). -/
def Dev.unstaged (c : Claim) (d : Dev) : Dev :=
  { d with
    biu.outbox.claim := none, pu.goReserved := false,
    oqs := { d.oqs with
      selectDue := true,
      queue := match c.tag with
        | some t => d.oqs.queue.map (fun e => if e.tag = t then { e with staged := false } else e)
        | none => d.oqs.queue },
    rs := match c.tag with
      | some _ => d.rs
      | none => d.rs.modRegion c.target.region (fun r => { r with stagedRfb := false }) }

/-- A STAGED claim, if there is one, unstaged (R56). -/
def Dev.anyUnstaged (d : Dev) : Dev :=
  match d.biu.stagedClaim with
  | some c => d.unstaged c
  | none => d

/-- The tags of the CANCELLING holdings among the own, in the order of the list: by ascending handle, the model's choice
(R76, log 41). -/
def Dev.cancellingTags (d : Dev) : List Byte :=
  d.ownHoldings.filterMap (fun h =>
    match h.holder with
    | .own p => if p.state = .cancelling then p.tag else none
    | .peer _ _ => none)

/-- CANCELLED queued for each of these tags (R76). -/
def Pu.cancelled (p : Pu) (tags : List Byte) : Pu := tags.foldl (fun p t => p.push (.cancelled t)) p

/-- The holding table with the replica cleared: the forced list, the handle counter, the contest count and the head
timer stand (R24). -/
def Ht.clearedView (h : Ht) : Ht :=
  { h with holdings := [], surge := [], pleas := 0, calQueue := [], nextTicket := 0 }

/-- Between two states one station's tally of an open window becomes what `f` makes of it, and nothing else changes;
with no window open nothing does. -/
def TallyBecomes (x : Station) (f : Tally → Tally) (a b : Dev) : Prop :=
  (a.pc.window = none → b = a) ∧
  (∀ w, a.pc.window = some w → ∃ w', b = { a with pc.window := some w' } ∧ w'.ends = w.ends ∧
    ∀ y, w'.tallyAt y = if y = x then f (w.tallyAt x) else w.tallyAt y)

/-! ### Selection (R158 to R160) -/

/-- The QUEUED entries below the bypass count 4, in queue order. -/
def Dev.queuedBelowFour (d : Dev) : List Entry := d.oqs.queue.filter (fun e => !e.staged && decide (e.bypass < 4))

/-- The QUEUED entries whose bypass count has reached 4, in queue order. -/
def Dev.queuedAtFour (d : Dev) : List Entry := d.oqs.queue.filter (fun e => !e.staged && decide (4 ≤ e.bypass))

/-- Every one of these entries fails its test, and not with A4 first: each stands aside (R160). -/
def Dev.standAside (d : Dev) (l : List Entry) : Prop := ∀ e ∈ l, d.testEntry e ≠ none ∧ d.testEntry e ≠ some .a4

/-- An entry at 4 lacks units alone, and every one before it stands aside: the selection ends in a block (R160). -/
def Dev.blocked (d : Dev) : Prop :=
  ∃ pre e post, d.queuedAtFour = pre ++ e :: post ∧ d.standAside pre ∧ d.testEntry e = some .a4

/-- The entries of a list that fail with A4 first (R159). -/
def Dev.lackUnits (d : Dev) (l : List Entry) : List Entry := l.filter (fun e => d.testEntry e == some .a4)

/-- From one state to another the bypass counts of these entries rise by 1, and no other changes (R159). -/
def bypassRises (a b : Dev) (l : List Entry) : Prop :=
  b.oqs.queue.map (fun e => (e.tag, e.bypass)) =
    a.oqs.queue.map (fun e => (e.tag, if e ∈ l then e.bypass + 1 else e.bypass))

/-- Whether a selection is due as the step from `before` closes: an event of R157 is noted, or a TAKE ended between the
step's notices (R157, R172). -/
def Dev.SelectionDue (before d : Dev) : Prop :=
  d.oqs.selectDue = true ∨ (before.pu.takeLeft ≠ 0 ∧ d.pu.takeLeft = 0)

/-- Two queues hold the same operations: tags, classes, regions, deadlines and overdue marks (R153). -/
def sameEntries (a b : List Entry) : Prop :=
  a.map (fun e => (e.tag, e.cls, e.region, e.deadline, e.overdue)) =
    b.map (fun e => (e.tag, e.cls, e.region, e.deadline, e.overdue))

/-- Nothing changed but what the close of a step may change: the CLAIM and INTENT slots, the handle counter, the head
and selection timers, staged-RFB marks, and the state, bypass count and intent flag of entries. -/
def Dev.SameButClose (a b : Dev) : Prop :=
  b.now = a.now ∧ b.resetKind = a.resetKind ∧ b.pc = a.pc ∧ b.pu = a.pu ∧
  b.ht = { a.ht with handleCtr := b.ht.handleCtr, headTimer := b.ht.headTimer } ∧
  b.biu = { a.biu with outbox := { a.biu.outbox with claim := b.biu.outbox.claim, intent := b.biu.outbox.intent } } ∧
  b.rs = { a.rs with regions := b.rs.regions } ∧
  (∀ n, b.rs.regionAt n = { a.rs.regionAt n with stagedRfb := (b.rs.regionAt n).stagedRfb }) ∧
  sameEntries a.oqs.queue b.oqs.queue

/-- Whether a command is a request of the controller of these kinds, or a PUT whose bytes spell one (R171, R175). -/
def Asks (p : Request → Prop) (c : Instr) : Prop :=
  match c with
  | .setup _ m a b => p (.setup m a b)
  | .rate _ g => p (.rate g)
  | .hold _ => p .hold
  | .resume _ => p .resume
  | .putMalformed _ bytes => ∃ r, Request.ofPut bytes = some r ∧ p r
  | _ => False

/-! ### Bounds and invariants -/

/-- The notice queue holds at most 16 notices, and at most 15 while a place is reserved (R178); a claim that may still
be delivered has its place reserved (R59); while a TAKE is under way the notice it has read stands in the queue
(R172). -/
def Dev.PortSound (d : Dev) : Prop :=
  d.pu.notices.length ≤ 16 ∧ (d.pu.goReserved = true → d.pu.notices.length ≤ 15) ∧
    (d.biu.claimSending = true → d.pu.goReserved = true) ∧ (d.pu.takeLeft ≠ 0 → d.pu.notices ≠ [])

/-- A region record in range; an EXEMPT region owes nothing and its timer is stopped with no time left (R104, R105,
R107). -/
def Region.Sound (r : Region) : Prop :=
  -8 ≤ r.debt ∧ r.debt ≤ 8 ∧ (r.exempt = true → r.debt = 0 ∧ r.timer = .stopped 0)

/-- The regions and levels in range, and the urgency state that R128 calls for at and above the start level and at and
below the end level. -/
def Rs.Sound (r : Rs) : Prop :=
  (∀ n, (r.regionAt n).Sound) ∧ 3 ≤ r.startLevel ∧ r.startLevel ≤ 7 ∧ r.endLevel < r.startLevel ∧
    ((r.startLevel : Int) ≤ r.greatestDebt → r.urgency = .urgent) ∧
    (r.greatestDebt ≤ (r.endLevel : Int) → r.urgency = .normal)

/-- The holdings list in canonical order, each key once (R1, R2). -/
def Canonical (l : List Holding) : Prop := l.Pairwise (fun x y => x.key < y.key)

/-- Whether the content is a CLAIM or URGENT CLAIM. -/
def isClaimFrame : Body → Bool
  | .claim _ _ _ _ _ => true
  | _ => false

/-- The frame in hand is a claim exactly when it comes from the CLAIM slot, and it is delivered only by a completed send
(R39, R42). -/
def InHand.Sound (f : InHand) : Prop := (f.ref = .claim ↔ isClaimFrame f.body = true) ∧ (f.delivered = true → 1 ≤ f.sends)

/-- The holding table in order: each key once in canonical order, never more than 32 records, never more than two own
holdings, a claim not yet delivered counted, and each station at most once in the calibration queue (R1, R2, R5,
R57). -/
def Dev.TableSound (d : Dev) : Prop :=
  Canonical d.ht.holdings ∧ d.ht.holdings.length ≤ 32 ∧ (∀ f, d.biu.inHand = some f → f.Sound) ∧
    d.ownHoldings.length + (if d.biu.openClaim.isSome then 1 else 0) ≤ 2 ∧ (d.ht.calQueue.map Prod.fst).Nodup

/-- The own holdings whose lease timer runs. -/
def Dev.leased (d : Dev) : List Holding := d.ownHoldings.filter (fun h => (h.part.bind OwnPart.leaseEnds).isSome)

/-- The handles on the forced list, with those that may still join it: of a running lease, or of a claim not yet
delivered (R63, R71). -/
def Dev.forceable (d : Dev) : List Byte :=
  d.leased.map Holding.handle ++ (d.biu.openClaim.map Claim.handle).toList ++ d.ht.forced.map Prod.fst

/-- The frame in hand has the content of its slot, as far as a RELEASE and a LEAVE go (R42). -/
def InHand.Matches (f : InHand) : Prop :=
  (∀ h o, f.body = .release h o → f.ref = .release h) ∧ (f.body = .leave → f.ref = .joinLeave)

/-- The RELEASE places: one frame a handle, each for an own holding whose lease timer does not run, or delivered and in
hand, with no own holding under its handle left and at most one in all (R42, R67, R68). -/
def Dev.ReleasePlaces (d : Dev) : Prop :=
  (d.biu.outbox.release.map RelFrame.handle).Nodup ∧
  (∀ r ∈ d.biu.outbox.release,
    (∃ h ∈ d.ownHoldings, h.handle = r.handle ∧ h ∉ d.leased) ∨
      ∃ f, d.biu.inHand = some f ∧ f.ref = .release r.handle ∧ f.delivered = true) ∧
  (∀ f h, d.biu.inHand = some f → f.ref = .release h →
    d.biu.outbox.hasRelease h = true ∧
      (f.delivered = true → d.ownHoldings.length ≤ 1 ∧ ∀ x ∈ d.ownHoldings, x.handle ≠ h))

/-- The EXTEND places: one a handle, each for an own holding whose lease timer runs, or in hand without a successor, the
holding's RELEASE placed but in CONFIG_FAULT (R42, R44, R62). -/
def Dev.ExtendPlaces (d : Dev) : Prop :=
  (d.biu.outbox.extend.map ExtFrame.handle).Nodup ∧
  (∀ e ∈ d.biu.outbox.extend, ∃ h ∈ d.ownHoldings, h.handle = e.handle ∧
    (h ∈ d.leased ∨ (d.biu.inHandIs (.extend e.handle) = true ∧ e.slot.next = none ∧
      (d.biu.outbox.hasRelease e.handle = true ∨ d.pc.presence = .configFault))))

/-- The places that the own holdings fill: the forced list with what may still join it has at most two handles, each
once, and the RELEASE and EXTEND places follow the own holdings; own records are those of the own number, and an
undelivered claim's handle is no own holding's (R1, R42, R50, R71). -/
def Dev.PlacesSound (d : Dev) : Prop :=
  d.TableSound ∧ (d.pc.presence = .offline → d.ht.holdings = []) ∧
  (∀ h ∈ d.ht.holdings, h.isOwn = true ↔ h.station = d.pc.station) ∧
  (∀ c, d.biu.openClaim = some c → ∀ h ∈ d.ownHoldings, h.handle ≠ c.handle) ∧
  d.forceable.Nodup ∧ d.forceable.length ≤ 2 ∧ (∀ f, d.biu.inHand = some f → f.Matches) ∧
  d.ReleasePlaces ∧ d.ExtendPlaces

/-- A roster record's counters in range (R81). -/
def RosterRec.Sound (r : RosterRec) : Prop :=
  r.mismatch ≤ 2 ∧ r.contests ≤ 65535 ∧ r.softContests ≤ 65535 ∧ r.forcedSeen ≤ 65535

/-- The counters, the surge history, the local queue and the answer tallies within their ranges (R3, R32, R34, R35, R41,
R81, R94, R104, R153, R178), and no two entries of the local queue with one tag (R154). -/
def Dev.Bounded (d : Dev) : Prop :=
  d.biu.losses ≤ 255 ∧ d.biu.consecErrors ≤ 15 ∧ d.biu.totalErrors ≤ 65535 ∧ d.biu.undelivered ≤ 65535 ∧
  d.biu.rxDiscards ≤ 65535 ∧ d.ht.contests ≤ 65535 ∧ d.ht.surge.length ≤ 16 ∧ d.pc.resyncs ≤ 65535 ∧
  (∀ x, (d.pc.rosterAt x).Sound) ∧ (∀ n, (d.rs.regionAt n).lapses ≤ 65535) ∧ d.oqs.queue.length ≤ 8 ∧
  (d.oqs.queue.map Entry.tag).Nodup ∧ (∀ e ∈ d.oqs.queue, e.bypass ≤ 4) ∧ d.pu.lost ≤ 65535 ∧ d.pu.malformed ≤ 65535 ∧
  (∀ w, d.pc.window = some w → ∀ x, (w.tallyAt x).counted ≤ 2 ∧ (w.tallyAt x).announced ≤ 3)

/-- CONFIG_FAULT as it is entered: no timer of the presence controller runs (R102). -/
def Dev.InConfigFault (d : Dev) : Prop :=
  d.pc.presence = .configFault ∧ d.pc.listenEnds = none ∧ d.pc.window = none ∧ d.pc.beaconEnds = none

/-! ### What a reset leaves -/

/-- The items that the tables of R9, R47, R103, R127, R138, R152, R169 and R184 give after a reset, while it is held. -/
def Dev.ResetItems (debt : Int) (u : Urgency) (d : Dev) : Prop :=
  (d.ht.holdings = [] ∧ d.ht.surge = [] ∧ d.ht.pleas = 0#16 ∧ d.ht.calQueue = [] ∧ d.ht.nextTicket = 0#16 ∧
    d.ht.forced = [] ∧ d.quarantined = false ∧ d.ht.handleCtr = 0#8 ∧ d.ht.contests = 0 ∧ d.ht.headTimer = none) ∧
  (d.biu.outbox = Outbox.empty ∧ d.biu.inHand = none ∧ d.biu.seqCtr = 0#8 ∧ d.biu.losses = 0 ∧ d.biu.consecErrors = 0 ∧
    d.biu.totalErrors = 0 ∧ d.biu.undelivered = 0 ∧ d.biu.rxDiscards = 0 ∧ d.biu.busFree = false ∧
    d.biu.line = .silent) ∧
  (d.pc.presence = .offline ∧ (∀ x, d.pc.rosterAt x = RosterRec.fresh) ∧ d.pc.syncCause = none ∧ d.pc.window = none ∧
    d.pc.beaconEnds = none ∧ d.pc.readyGiven = false ∧ d.pc.cfgCause = none ∧ d.pc.resyncs = 0) ∧
  ((∀ n, (d.rs.regionAt n).exempt = false ∧ (d.rs.regionAt n).debt = debt ∧ (d.rs.regionAt n).pointer = 0#3 ∧
      (d.rs.regionAt n).lapses = 0 ∧ (d.rs.regionAt n).stagedRfb = false) ∧
    d.rs.grade = .one ∧ d.rs.hold = false ∧ d.rs.startLevel = 5 ∧ d.rs.endLevel = 2 ∧ d.rs.urgency = u ∧
    d.rs.pleaMark = .none) ∧
  (d.oqs.queue = [] ∧ d.oqs.selTimer = none) ∧
  (d.pu.notices = [] ∧ d.pu.takeLeft = 0 ∧ d.pu.goReserved = false ∧ d.pu.lost = 0 ∧ d.pu.malformed = 0 ∧
    d.pu.portError = false ∧ d.pu.setupLock = false ∧ d.pu.sdo = .highZ)

end Sys2Proof.Machine
end

