-- ==== Sys2Proof/Certificates/Slice0/Obligations.lean ====
section
/-! DEFINITION. The statements about the model, for the provers. -/

section

open Sys2Proof Sys2Proof.Machine

/-! ### The queue of commands and the resets -/

/-- With a command waiting, a step is exactly that command's effect with the rest of the queue behind it. With none
waiting the part idles (the model's choice, log 3). -/
def Obligations.StepTakesTheFrontCommand : Prop :=
  ∀ s : State, (∀ c rest, s.pending = c :: rest → step s = exec c { s with pending := rest }) ∧
    (s.pending = [] → step s = .next s)

/-- Every command completes in every state, and the commands that wait are left as they are. -/
def Obligations.EveryCommandCompletes : Prop :=
  ∀ (c : Instr) (s : State), ∃ d, exec c s = .next { s with dev := d }

/-- POWER_ON_RESET and LINE_RESET leave every item of the reset tables as given; after power-on every region owes 0
and the station is NORMAL, after a line reset every region owes 5 and it is URGENT. Values the spec does not give are
no part of it (log 7). Each command counts from every state, one that the other reset still holds among them: that RST_N
falling during power-on reset leaves debts of 5, URGENT and kind LINE, and the reverse power-on's values, is the model's
choice, which no rule states (log 40, unsafe). -/
def Obligations.ResetsSetEveryBlock : Prop :=
  (∀ s : State,
    (∃ d, exec .powerOnReset s = .next { s with dev := d } ∧ d.ResetItems 0 .normal ∧ d.resetKind = .powerOn) ∧
    (∃ d, exec .lineReset s = .next { s with dev := d } ∧ d.ResetItems 5 .urgent ∧ d.resetKind = .line)) ∧
  State.reset.dev.ResetItems 0 .normal ∧ State.reset.pending = []

/-- While reset is held, a command other than a reset and its release does nothing but let its time pass: the local
time goes on, never back, and surge entries age out with it; right after a reset no timer runs, so the moments of the
part's own change nothing at all. From a reset held for any time, RESET_RELEASE samples the straps, enters LISTENING
with its timer at 6,000 µs from then, queues RESET of the reset's kind and no other notice, starts the accrual timers
at 2,000, 4,000, 6,000 and 8,000 µs from then, notes whether CS_N is low, and leaves the rest as the reset set it.
That time passes while reset is held, that no STATE is queued, and that local time counts from 0, is the model's
reading (logs 1, 5, 7, 8). -/
def Obligations.HeldPartWaitsForItsRelease : Prop :=
  ((∀ (c : Instr) (s : State), s.dev.pc.presence = .offline → c ≠ .powerOnReset → c ≠ .lineReset →
      (∀ dt sid bc cs, c ≠ .resetRelease dt sid ⟨bc, cs⟩) →
      (∀ dt, timeOf c = some dt → exec c s = .next { s with dev := s.dev.elapse dt }) ∧
      (timeOf c = none → ∀ t, s.dev.endOf c = some t → exec c s = .next { s with dev := s.dev.elapseTo t }) ∧
      (timeOf c = none → s.dev.endOf c = none → exec c s = .next s)) ∧
    (∀ k c, (Dev.held k).endOf c = none) ∧
    (∀ (d : Dev) dt t, d.elapse dt = d.elapseTo (d.now + dt) ∧
      d.elapseTo t =
        { d with now := max d.now t, ht.surge := d.ht.surge.filter (fun x => max d.now t ≤ x + us 1000) }) ∧
    (∀ k (t dt : Time), ({ Dev.held k with now := t } : Dev).elapse dt = { Dev.held k with now := t + dt })) ∧
  (∀ (k : ResetKind) (s : State) (t dt : Time) (sid : BitVec 4) (bc : BitVec 2) (cs : Bool),
    s.dev = { Dev.held k with now := t } →
    ∃ d, exec (.resetRelease dt sid ⟨bc, cs⟩) s = .next { s with dev := d } ∧
      d.now = t + dt ∧ d.resetKind = k ∧ d.biu = s.dev.biu ∧ d.ht = s.dev.ht ∧ d.oqs = s.dev.oqs ∧
      d.pc = { s.dev.pc with station := sid, budget := bc, presence := .listening,
                             listenEnds := some (t + dt + us 6000) } ∧
      d.units = (if bc = 0#2 then 16 else if bc = 1#2 then 24 else if bc = 2#2 then 32 else 48) ∧
      d.pu = { s.dev.pu with notices := [.reset k], csLow := cs } ∧
      d.rs = { s.dev.rs with regions := d.rs.regions } ∧
      (∀ n, d.rs.regionAt n =
        { s.dev.rs.regionAt n with timer := .running (t + dt + us (2000 * (n.toNat + 1))) }))

/-- ATTN_N is low exactly while a notice waits; it falls as a notice joins an empty queue, a dropped notice does not
move it, it is high while reset is held and low at the release, and it rises with the TAKE of the last notice. -/
def Obligations.AttentionLineFollowsTheNoticeQueue : Prop :=
  (∀ d : Dev, d.attnLow = true ↔ d.pu.notices ≠ []) ∧
  (∀ (d : Dev) n, d.PortSound → d.pu.notices = [] → (d.notify n).attnLow = true) ∧
  (∀ (d : Dev) n, (d.notify n).pu.notices = d.pu.notices → (d.notify n).attnLow = d.attnLow) ∧
  (∀ k, (Dev.held k).attnLow = false) ∧
  (∀ k (s : State) t dt sid bc cs, s.dev = { Dev.held k with now := t } →
    ∃ d, exec (.resetRelease dt sid ⟨bc, cs⟩) s = .next { s with dev := d } ∧ d.attnLow = true) ∧
  (∀ (s : State) dt n clocked, s.dev.TakesTransfers → s.dev.pu.notices = [n] → n.bytes.length ≤ clocked →
    ∃ d, exec (.take dt ⟨clocked, 0⟩) s = .next { s with dev := d } ∧ d.attnLow = false)

/-- RATE sets the grade in every presence state, held or not, locked or not, with no notice; any value but 1 and 2 is
refused BAD_FIELD and leaves the grade; grade 1 accrues every 8,000 µs and grade 2 every 4,000 µs, from the next
expiry of each region's timer; the grade is 1 after either reset. SETUP is refused LOCKED once the lock is set, and
BAD_FIELD for mode bits 7 to 4, a start level outside 3 to 7 or an end level not below it; else the named regions become
EXEMPT at debt 0 with their timer stopped, the levels are taken, the lock is set, and the urgency is evaluated once. The
timer counts from its end even where the command comes late (log 2); a stopped timer is given no time left (log 7). A
TAKE still under way has ended before a request, or any other transfer, is looked at, the moment being the model's
(log 39). -/
def Obligations.RateAndSetupAreTakenOrRefused : Prop :=
  ((∀ (s : State) dt, s.dev.TakesTransfers →
      exec (.rate dt 1) s = .next (s.afterPort dt { s.dev.asked dt with rs.grade := .one }) ∧
      exec (.rate dt 2) s = .next (s.afterPort dt { s.dev.asked dt with rs.grade := .two }) ∧
      (∀ g : Byte, g ≠ 1 → g ≠ 2 →
        exec (.rate dt g) s = .next (s.afterPort dt ((s.dev.asked dt).notify (.refuse .rate none .badField))))) ∧
    (∀ (s : State) r t, s.dev.Up → (s.dev.rs.regionAt r).timer = .running t →
      ∃ d, exec (.accrualTimerExpiry r) s = .next { s with dev := d } ∧
        (d.rs.regionAt r).timer =
          .running (t + (match s.dev.rs.grade with | .one => us 8000 | .two => us 4000))) ∧
    (∀ k, (Dev.held k).rs.grade = .one)) ∧
  (∀ (s : State) dt (modes start stop : Byte), s.dev.TakesTransfers →
      let d := s.dev.asked dt
      let ok := modes.toNat < 16 ∧ 3 ≤ start.toNat ∧ start.toNat ≤ 7 ∧ stop.toNat < start.toNat
      (d.pu.setupLock = true →
        exec (.setup dt modes start stop) s = .next (s.afterPort dt (d.notify (.refuse .setup none .locked)))) ∧
      (d.pu.setupLock = false → ¬ ok →
        exec (.setup dt modes start stop) s = .next (s.afterPort dt (d.notify (.refuse .setup none .badField)))) ∧
      (d.pu.setupLock = false → ok → ∃ r : Rs,
        (∀ n, r.regionAt n =
          if modes.getLsbD n.toNat then
            { d.rs.regionAt n with exempt := true, debt := 0, timer := .stopped 0 }
          else d.rs.regionAt n) ∧
        r = { d.rs with regions := r.regions, startLevel := start.toNat, endLevel := stop.toNat } ∧
        exec (.setup dt modes start stop) s =
          .next (s.afterPort dt (Dev.evalUrgency { d with rs := r, pu.setupLock := true }))))

/-! ### What every step keeps -/

/-- No step overfills the notice queue or lets a claim that may still be delivered lose its reserved place; the notice
that a TAKE under way has read stands in the queue. -/
def Obligations.NoticeQueueInvariantKept : Prop :=
  ∀ s s' : State, s.dev.PortSound → step s = .next s' → s'.dev.PortSound

/-- Every step keeps every region's debt between −8 and +8, an EXEMPT region at debt 0 with its timer stopped, the
levels in range, the state URGENT at or above the start level and NORMAL at or below the end level. -/
def Obligations.RetentionInvariantKept : Prop :=
  ∀ s s' : State, s.dev.rs.Sound → step s = .next s' → s'.dev.rs.Sound

/-- Every step keeps the holdings list in canonical order with each key once and at most 32 records, at most two own
holdings (an undelivered claim counted), and at most one calibration entry per station. -/
def Obligations.HoldingTableInvariantKept : Prop :=
  ∀ s s' : State, s.dev.TableSound → step s = .next s' → s'.dev.TableSound

/-- Every step keeps the places that the own holdings fill: the handles on the forced list, with those of running leases
and of an undelivered claim that may still join it, are at most two, each once; each RELEASE place is that of one own
holding whose lease has stopped, or of the RELEASE in hand once delivered; each EXTEND place is that of one own holding.
Hence the forced list, the RELEASE places and the EXTEND places are at most two. -/
def Obligations.OwnPlacesInvariantKept : Prop :=
  (∀ s s' : State, s.dev.PlacesSound → step s = .next s' → s'.dev.PlacesSound) ∧
  (∀ d : Dev, d.PlacesSound →
    d.ht.forced.length ≤ 2 ∧ d.biu.outbox.release.length ≤ 2 ∧ d.biu.outbox.extend.length ≤ 2)

/-- Every step keeps the counters, the surge history, the local queue and the answer tallies of an open window within
their ranges, and the tags of the local queue distinct. The holdings list, the notice queue, the forced list and the
outbox are bounded by statements of their own. -/
def Obligations.CountersAndListsStayInRange : Prop :=
  ∀ s s' : State, s.dev.Bounded → step s = .next s' → s'.dev.Bounded

/-- The five invariants hold while either reset is held, and so in the state right after reset. -/
def Obligations.ResetStateMeetsEveryInvariant : Prop :=
  (∀ k, (Dev.held k).PortSound ∧ (Dev.held k).rs.Sound ∧ (Dev.held k).TableSound ∧ (Dev.held k).PlacesSound ∧
    (Dev.held k).Bounded) ∧
  State.reset.dev = Dev.held .powerOn

/-- Out of reset the straps as sampled, the SETUP lock once set, and the hold flag, the rate grade, the modes and the
levels stand through every command but the request that changes them and the two resets. From CONFIG_FAULT no command
but a reset leads anywhere, and none changes anything of the presence controller. -/
def Obligations.StandingSettingsChangeByTheirRequestAlone : Prop :=
  (∀ (c : Instr) (s s' : State), s.dev.Up → c ≠ .powerOnReset → c ≠ .lineReset → exec c s = .next s' →
      (s'.dev.pc.station = s.dev.pc.station ∧ s'.dev.pc.budget = s.dev.pc.budget) ∧
      (s.dev.pu.setupLock = true → s'.dev.pu.setupLock = true) ∧
      (s'.dev.rs.hold = s.dev.rs.hold ∨ Asks (fun r => r = .hold ∨ r = .resume) c) ∧
      (s'.dev.rs.grade = s.dev.rs.grade ∨ Asks (fun r => ∃ g, r = .rate g) c) ∧
      ((s'.dev.rs.startLevel = s.dev.rs.startLevel ∧ s'.dev.rs.endLevel = s.dev.rs.endLevel ∧
          ∀ n, (s'.dev.rs.regionAt n).exempt = (s.dev.rs.regionAt n).exempt) ∨
        Asks (fun r => ∃ m a b, r = .setup m a b) c)) ∧
  (∀ (c : Instr) (s s' : State), s.dev.InConfigFault → c ≠ .powerOnReset → c ≠ .lineReset → exec c s = .next s' →
      s'.dev.pc = s.dev.pc)

/-! ### Admission, staging and selection -/

/-- A claim passes exactly when A1, A2, A5, A6, A7, A8 and the two conditions on the rail hold; a failing test names
the first condition that fails. -/
def Obligations.AdmissionTestAsksEightConditions : Prop :=
  ∀ (d : Dev) (c : Cls) (r : RegionNo),
    (d.a1 = true ↔ d.pc.presence = .member ∧ d.ht.forced = []) ∧
    (d.a2 c r = true ↔ d.ownHoldings.length < 2 ∧
      (c = .rfb → ∀ h ∈ d.ownHoldings, h.cls = .rfb → h.target.region ≠ r)) ∧
    (d.a5 c r = true ↔ (∀ s, inMask d.ht.pleas s = true → s = d.pc.station) ∨
      (c = .rfb ∧ 1 ≤ (d.rs.regionAt r).debt)) ∧
    (d.a6 c = true ↔ (c = .cal → (∀ h ∈ d.ht.holdings, h.cls ≠ .cal) ∧
      ∃ t rest, d.ht.calQueue = (d.pc.station, t) :: rest)) ∧
    (d.a7 = true ↔ d.pu.notices.length ≤ 12) ∧ (d.a8 = true ↔ d.rs.hold = false) ∧
    (d.firstFail c r = none ↔
      d.a1 = true ∧ d.a2 c r = true ∧ d.a3 = true ∧ d.a4 c = true ∧ d.a5 c r = true ∧ d.a6 c = true ∧ d.a7 = true ∧
        d.a8 = true) ∧
    (d.firstFail c r = some .a1 ↔ d.a1 = false) ∧
    (d.firstFail c r = some .a2 ↔ d.a1 = true ∧ d.a2 c r = false) ∧
    (d.firstFail c r = some .a3 ↔ d.a1 = true ∧ d.a2 c r = true ∧ d.a3 = false) ∧
    (d.firstFail c r = some .a4 ↔ d.a1 = true ∧ d.a2 c r = true ∧ d.a3 = true ∧ d.a4 c = false) ∧
    (d.firstFail c r = some .a5 ↔
      d.a1 = true ∧ d.a2 c r = true ∧ d.a3 = true ∧ d.a4 c = true ∧ d.a5 c r = false) ∧
    (d.firstFail c r = some .a6 ↔
      d.a1 = true ∧ d.a2 c r = true ∧ d.a3 = true ∧ d.a4 c = true ∧ d.a5 c r = true ∧ d.a6 c = false) ∧
    (d.firstFail c r = some .a7 ↔
      d.a1 = true ∧ d.a2 c r = true ∧ d.a3 = true ∧ d.a4 c = true ∧ d.a5 c r = true ∧ d.a6 c = true ∧ d.a7 = false) ∧
    (d.firstFail c r = some .a8 ↔
      d.a1 = true ∧ d.a2 c r = true ∧ d.a3 = true ∧ d.a4 c = true ∧ d.a5 c r = true ∧ d.a6 c = true ∧ d.a7 = true ∧
        d.a8 = false)

/-- A3 and A4, with the two worked cases for a budget of 24. -/
def Obligations.RailConditionsCountStartsAndUnits : Prop :=
  (∀ d : Dev, d.a3 = true ↔ d.ht.surge.length < 12) ∧
  (∀ (d : Dev) c, d.a4 c = true ↔
    if c = .rfb ∧ d.rs.urgency = .urgent then (c.units : Int) ≤ d.free else (c.units : Int) ≤ d.free - 4) ∧
  (∀ d : Dev, d.pc.budget = 1#2 → heldUnits d.ht.holdings = 15 →
    d.free = 9 ∧ d.a4 .rfb = true ∧ d.a4 .cal = true ∧ d.a4 .scb = false) ∧
  (∀ d : Dev, d.pc.budget = 1#2 → heldUnits d.ht.holdings = 21 →
    d.free = 3 ∧ (d.a4 .rfb = true ↔ d.rs.urgency = .urgent) ∧ d.a4 .cal = false ∧ d.a4 .scb = false ∧
      d.a4 .ini = false) ∧
  (∀ (d : Dev) c r, d.a3 = false ∨ d.a4 c = false → d.firstFail c r ≠ none)

/-- What a step stages at its close: the five conditions held, the candidate passed the admission test, and its kind
follows the urgency. Its handle is the own handle counter's value, or the next where an own holding has that one, and
is no own holding's; the counter goes to one past it. A refresh takes its region's pointer and sets its region's mark
alone; a local entry was QUEUED and becomes STAGED, and no other. When in a step a selection is made is the model's
choice (log 11). -/
def Obligations.StagingFollowsAPassedSelection : Prop :=
  ∀ (b d : Dev) (c : Claim), (d.oqs.queue.map Entry.tag).Nodup → d.biu.outbox.claim = none →
    (Dev.close b d).biu.outbox.claim = some c →
    Dev.SelectionDue b d ∧ d.pc.presence = .member ∧ d.ht.forced = [] ∧ d.ownHoldings.length < 2 ∧
    d.pu.notices.length ≤ 12 ∧ d.rs.hold = false ∧ d.firstFail c.cls c.target.region = none ∧
    (c.handle = if ∃ h ∈ d.ownHoldings, h.handle = d.ht.handleCtr then d.ht.handleCtr + 1 else d.ht.handleCtr) ∧
    (∀ h ∈ d.ownHoldings, h.handle ≠ c.handle) ∧ (Dev.close b d).ht.handleCtr = c.handle + 1 ∧
    (∀ n, (Dev.close b d).rs.regionAt n =
      if c.tag = none ∧ n = c.target.region then { d.rs.regionAt n with stagedRfb := true } else d.rs.regionAt n) ∧
    (Dev.close b d).oqs.queue.map (fun e => (e.tag, e.staged)) =
      d.oqs.queue.map (fun e => (e.tag, e.staged || some e.tag == c.tag)) ∧
    c.cancel = false ∧ c.seq = none ∧ (c.urgent = true ↔ c.cls = .rfb ∧ d.rs.urgency = .urgent) ∧
    (Dev.close b d).oqs.selTimer = none ∧
    (c.tag = none → c.cls = .rfb ∧ c.target.group = (d.rs.regionAt c.target.region).pointer ∧
      ((Dev.close b d).rs.regionAt c.target.region).stagedRfb = true) ∧
    (∀ t, c.tag = some t → ∃ e ∈ d.oqs.queue, e.tag = t ∧ e.staged = false ∧ c.cls = e.cls ∧
      c.target = { region := e.region.getD 0, group := 0 } ∧
      ∃ e' ∈ (Dev.close b d).oqs.queue, e'.tag = t ∧ e'.staged = true)

/-- The three steps of a selection. Normal demand names the eligible region of greatest debt at 1 or more, pull-in,
under its four conditions, that of greatest debt between −7 and 0, each the lowest among equals. A normal demand that
passes is staged. Else, neither URGENT nor with another station's plea, the entries at bypass count 4 are tested
first: one that passes is staged, one that lacks units alone blocks the rest, the others stand aside; then the oldest
other QUEUED entry that passes is staged; where none passes, pull-in. Where nothing is staged none of these held. The
entries passed over for want of units gain 1; a normal demand, a block or an empty selection changes no count. When in
a step a selection is made is the model's choice (log 11). -/
def Obligations.SelectionKeepsItsOrder : Prop :=
  (∀ (d : Dev) r, d.normalDemand = some r ↔
    d.rs.hold = false ∧ d.eligible r = true ∧ 1 ≤ (d.rs.regionAt r).debt ∧
      (∀ n, d.eligible n = true → 1 ≤ (d.rs.regionAt n).debt →
        (d.rs.regionAt n).debt < (d.rs.regionAt r).debt ∨
          ((d.rs.regionAt n).debt = (d.rs.regionAt r).debt ∧ r ≤ n))) ∧
  (∀ (d : Dev) r, d.eligible r = true ↔
    (d.rs.regionAt r).exempt = false ∧ (d.rs.regionAt r).stagedRfb = false ∧
      ∀ h ∈ d.ownHoldings, h.cls = .rfb → h.target.region ≠ r) ∧
  (∀ (d : Dev) r, d.pullInDemand = some r ↔
    d.rs.hold = false ∧ d.rs.urgency = .normal ∧ (∀ s, inMask d.ht.pleas s = true → s = d.pc.station) ∧
      10 ≤ d.free - 3 ∧ d.ht.surge.length ≤ 8 ∧ d.eligible r = true ∧ -7 ≤ (d.rs.regionAt r).debt ∧
      (d.rs.regionAt r).debt ≤ 0 ∧
      (∀ n, d.eligible n = true → -7 ≤ (d.rs.regionAt n).debt → (d.rs.regionAt n).debt ≤ 0 →
        (d.rs.regionAt n).debt < (d.rs.regionAt r).debt ∨
          ((d.rs.regionAt n).debt = (d.rs.regionAt r).debt ∧ r ≤ n))) ∧
  (∀ (b d : Dev), (d.oqs.queue.map Entry.tag).Nodup → d.biu.outbox.claim = none →
    let e := Dev.close b d
    let demandPasses := ∃ r, d.normalDemand = some r ∧ d.firstFail .rfb r = none
    let localTested := d.rs.urgency = .normal ∧ ∀ s, inMask d.ht.pleas s = true → s = d.pc.station
    (∀ c, e.biu.outbox.claim = some c → demandPasses →
      c.tag = none ∧ c.cls = .rfb ∧ d.normalDemand = some c.target.region ∧ bypassRises d e []) ∧
    (∀ c, e.biu.outbox.claim = some c → ¬ demandPasses → localTested ∧
      ((∃ pre x post, d.queuedAtFour = pre ++ x :: post ∧ d.standAside pre ∧ d.testEntry x = none ∧
          c.tag = some x.tag ∧ bypassRises d e []) ∨
        (∃ pre x post, d.standAside d.queuedAtFour ∧ d.queuedBelowFour = pre ++ x :: post ∧
          (∀ y ∈ pre, d.testEntry y ≠ none) ∧ d.testEntry x = none ∧ c.tag = some x.tag ∧
          bypassRises d e (d.lackUnits pre)) ∨
        (d.standAside d.queuedAtFour ∧ (∀ y ∈ d.queuedBelowFour, d.testEntry y ≠ none) ∧ c.tag = none ∧ c.cls = .rfb ∧
          d.pullInDemand = some c.target.region ∧ bypassRises d e (d.lackUnits d.queuedBelowFour)))) ∧
    (e.biu.outbox.claim = none → bypassRises d e []) ∧
    (e.biu.outbox.claim = none → Dev.SelectionDue b d → d.pc.presence = .member → d.ht.forced = [] →
      d.ownHoldings.length < 2 → d.pu.notices.length ≤ 12 → d.rs.hold = false →
      ¬ demandPasses ∧ (localTested → d.blocked ∨
        (d.standAside d.queuedAtFour ∧ (∀ y ∈ d.queuedBelowFour, d.testEntry y ≠ none) ∧
          ∀ r, d.pullInDemand = some r → d.firstFail .rfb r ≠ none))))

/-- INTENT ENQUEUE is placed as a step closes where the five conditions hold: MEMBER, a QUEUED CAL entry, no own entry
in the own calibration queue, no ENQUEUE or REQUEUE in the INTENT slot, no own CAL holding; the oldest QUEUED CAL
entry then bears the intent flag, and no other. Where they do not hold the slot stays as it is. The flags clear while
neither the own replica holds an own entry nor the slot an ENQUEUE, and else stand. That the conditions are tested at
the close of every step is the model's choice (log 11), and that a successor in the slot counts as held its reading
(log 28). -/
def Obligations.EnqueueIsPlacedWhenItsConditionsHold : Prop :=
  ∀ (b d : Dev),
    let e := Dev.close b d
    let flags := e.oqs.queue.map (fun x => (x.tag, x.intent))
    let noEntry := ∀ x ∈ d.ht.calQueue, x.1 ≠ d.pc.station
    let wants := d.pc.presence = .member ∧ (∃ x ∈ d.oqs.queue, x.cls = .cal ∧ x.staged = false) ∧ noEntry ∧
      d.biu.outbox.intent.holds .enqueue = false ∧ d.biu.outbox.intent.holds .requeue = false ∧
      ∀ h ∈ d.ownHoldings, h.cls ≠ .cal
    (wants → e.biu.outbox.intent = d.biu.outbox.intent.place (d.biu.inHandIs .intent) intentMerge .enqueue ∧
      ∀ pre x post, d.oqs.queue = pre ++ x :: post → x.cls = .cal → x.staged = false →
        (∀ y ∈ pre, ¬ (y.cls = .cal ∧ y.staged = false)) →
        flags = pre.map (fun y => (y.tag, false)) ++ (x.tag, true) :: post.map (fun y => (y.tag, false))) ∧
    (¬ wants → e.biu.outbox.intent = d.biu.outbox.intent) ∧
    (¬ wants → noEntry → d.biu.outbox.intent.holds .enqueue = false →
      flags = d.oqs.queue.map (fun y => (y.tag, false))) ∧
    (¬ noEntry ∨ d.biu.outbox.intent.holds .enqueue = true → flags = d.oqs.queue.map (fun y => (y.tag, y.intent))) ∧
    (∀ (α : Type) [DecidableEq α] (x : α) (s : Slot α),
      s.holds x = true ↔ (∃ c, s.content = some c ∧ c.body = x) ∨ s.next = some x)

/-! ### The station's own frames on the line -/

/-- At a free bus with nothing in hand the BIU offers at most one frame, of the lowest kind among those that may be
sent. It takes the sequence counter's value at its first attempt and its patience from the loss count, goes out with the
fresh flag set, and the line carries its bytes; a claim reserves its GO place. A due repeat goes before any other frame,
with its own number, its content as sent and the fresh flag clear. Nothing is offered where the outbox is not served, or
in LINK_FAULT once the own holdings have settled (log 15). That frames start at this command alone, and a claim is
tested also when a repeat is due, is the model's (logs 9, 27). The last clause, that BUS_FREE while an attempt is under
way changes only the time, is the model's choice: the bus is not free then, and no rule gives that event (log 4). -/
def Obligations.FreeBusOffersTheLowestKind : Prop :=
  ∀ (s : State) dt, s.dev.Up →
    let d := Dev.retest { s.dev.elapse dt with biu.busFree := true, biu.line := .silent }
    let patience := BitVec.ofNat 3 (7 - min 7 d.biu.losses)
    let open' := d.pc.presence.serves = true ∧ ¬ (d.pc.presence = .linkFault ∧ d.settled = true)
    (s.dev.biu.inHand = none → (¬ open' ∨ d.candidates = []) → exec (.busFree dt) s = .next (s.after dt d)) ∧
    (s.dev.biu.inHand = none → open' → d.candidates ≠ [] →
      ∃ o ∈ d.candidates, (∀ o' ∈ d.candidates, (kindOf o.body).toNat ≤ (kindOf o'.body).toNat) ∧
        exec (.busFree dt) s = .next (s.after dt { d with
          biu.seqCtr := if o.seq = none then d.biu.seqCtr + 1 else d.biu.seqCtr,
          biu.outbox := d.biu.outbox.number o.ref (o.seq.getD d.biu.seqCtr),
          biu.inHand := some { ref := o.ref, body := o.body, seq := o.seq.getD d.biu.seqCtr, patience := patience,
                               fresh := true, sending := true, sends := 0, acked := 0, delivered := false },
          biu.line := .sending (drivenBytes patience true d.pc.station (o.seq.getD d.biu.seqCtr) o.body),
          biu.busFree := false,
          pu.goReserved := d.pu.goReserved || o.ref == .claim })) ∧
    (∀ f, s.dev.biu.inHand = some f → f.sending = false →
      exec (.busFree dt) s = .next (s.after dt
        (if open' ∨ (d.pc.presence = .detached ∧ f.ref = .joinLeave) then
          { d with biu.inHand := some { f with sending := true, patience := patience, fresh := false },
                   biu.line := .sending (drivenBytes patience false d.pc.station f.seq f.body), biu.busFree := false }
        else d))) ∧
    (∀ f, s.dev.Sends f → exec (.busFree dt) s = .next { s with dev := s.dev.elapse dt })

/-- A STAGED claim is tested at every free bus in MEMBER, a pull-in also against its four conditions. A passed test
sets its kind; a failed one unstages it with no notice, and its entry is QUEUED again or its region's mark is cleared.
Every claim that begins its way on the line passed the admission test in MEMBER at that moment, carries the kind the
urgency sets, and has its GO place reserved. That a claim is tested also when another frame goes first is the model's
reading (log 27). -/
def Obligations.StagedClaimIsTestedBeforeItIsSent : Prop :=
  (∀ (d : Dev) (c : Claim), d.biu.stagedClaim = some c →
      (d.stagedPasses c = true ↔ d.firstFail c.cls c.target.region = none ∧
        (c.cls = .rfb → (d.rs.regionAt c.target.region).debt ≤ 0 →
          d.rs.urgency = .normal ∧ (∀ s, inMask d.ht.pleas s = true → s = d.pc.station) ∧ 10 ≤ d.free - 3 ∧
            d.ht.surge.length ≤ 8)) ∧
      (d.pc.presence ≠ .member → d.retest = d) ∧
      (d.pc.presence = .member → d.stagedPasses c = true →
        d.retest = { d with biu.outbox.claim := some { c with urgent := c.cls == .rfb && d.rs.urgency == .urgent } }) ∧
      (d.pc.presence = .member → d.stagedPasses c = false →
        d.retest = Dev.prompt
          { d with biu.outbox.claim := none, pu.goReserved := false,
                   oqs.queue := match c.tag with
                     | some t => d.oqs.queue.map (fun e => if e.tag = t then { e with staged := false } else e)
                     | none => d.oqs.queue,
                   rs := match c.tag with
                     | some _ => d.rs
                     | none => d.rs.modRegion c.target.region (fun r => { r with stagedRfb := false }) })) ∧
  (∀ (c : Instr) (s s' : State) (f : InHand), s.dev.biu.inHand = none → exec c s = .next s' →
      s'.dev.biu.inHand = some f → f.ref = .claim →
      ∃ dt cl, c = .busFree dt ∧ s.dev.biu.outbox.claim = some cl ∧ s.dev.pc.presence = .member ∧
        (s.dev.elapse dt).firstFail cl.cls cl.target.region = none ∧
        f.body = .claim (cl.cls == .rfb && s.dev.rs.urgency == .urgent) cl.handle cl.cls.code (nat8 cl.cls.units)
          cl.target.byte ∧
        f.fresh = true ∧ f.sends = 0 ∧ s'.dev.pu.goReserved = true)

/-- ARBITRATION_LOSS raises the loss count to at most 255. BIT_ERROR counts a bus error, leaves the loss count, and at
the sixteenth in a row clears that count and reports a link fault. Both end the attempt; neither can come without one.
An attempt that is lost or aborted: a committed frame stays committed, another returns to waiting with its number and
lets its successor settle, and a claim stays STAGED unless a cancel, a deadline, an unstaging or the presence state
has called it back. In CONFIG_FAULT the frame is dropped. Logs 4 and 12 hold the model's own part. A link fault
follows the end of the attempt and its notices (log 42). -/
def Obligations.LossesAndBusErrorsKeepTheFrame : Prop :=
  ((∀ (s : State) dt f, s.dev.Up → s.dev.Sends f →
      exec (.arbitrationLoss dt) s = .next (s.after dt (Dev.attemptFailed
        { s.dev.elapse dt with biu.losses := if s.dev.biu.losses < 255 then s.dev.biu.losses + 1 else s.dev.biu.losses,
                               biu.line := .silent })) ∧
      (s.dev.biu.consecErrors < 15 →
        exec (.bitError dt) s = .next (s.after dt (Dev.attemptFailed
          { s.dev.elapse dt with biu.consecErrors := s.dev.biu.consecErrors + 1,
                                 biu.totalErrors := inc16 s.dev.biu.totalErrors, biu.line := .abort }))) ∧
      (s.dev.biu.consecErrors = 15 →
        exec (.bitError dt) s = .next (s.after dt (Dev.linkFault .busErrors (Dev.attemptFailed
          { s.dev.elapse dt with biu.consecErrors := 0, biu.totalErrors := inc16 s.dev.biu.totalErrors,
                                 biu.line := .abort }))))) ∧
    (∀ (s : State) dt a1 a2, s.dev.biu.attempting = false →
      exec (.arbitrationLoss dt) s = .next { s with dev := s.dev.elapse dt } ∧
      exec (.bitError dt) s = .next { s with dev := s.dev.elapse dt } ∧
      exec (.sendComplete dt ⟨a1, a2⟩) s = .next { s with dev := s.dev.elapse dt }) ∧
    (∀ n, inc16 n = if n < 65535 then n + 1 else n)) ∧
  (∀ (d : Dev) (f : InHand), d.biu.inHand = some f →
      (d.pc.presence = .configFault → d.attemptFailed = d.leaveSlot f) ∧
      (d.pc.presence ≠ .configFault → 1 ≤ f.sends →
        d.attemptFailed = { d with biu.inHand := some { f with sending := false } }) ∧
      (d.pc.presence ≠ .configFault → f.sends = 0 → f.ref ≠ .claim →
        d.attemptFailed = { d with biu.inHand := none, biu.outbox := d.biu.outbox.backToWaiting f.ref }) ∧
      (∀ c, d.pc.presence ≠ .configFault → f.sends = 0 → f.ref = .claim → d.biu.outbox.claim = some c →
        let called := c.cancel = true ∨ c.unstageDue = true ∨
          (∃ t e, c.tag = some t ∧ d.oqs.entry? t = some e ∧ e.overdue = true) ∨
          d.pc.presence = .leaving ∨ d.pc.presence = .linkFault
        (¬ called → d.attemptFailed = { d with biu.inHand := none }) ∧
        (called → d.attemptFailed = Dev.endClaim c { d with biu.inHand := none })))

/-- A send reaches its end: the counts are cleared, and members whose slots the two acknowledgement bytes show
dominant join those that have acknowledged. The first acknowledgement of a member, or the absence of other members,
delivers the frame, and it is applied once. Then: acknowledged by every member, it is finished; a repeat is due up to
three times, but none in CONFIG_FAULT, where the frame is dropped; after the third it is finished, or undelivered
where no member ever acknowledged it: counted and reported, a link fault in the states that can enter one. Undelivered
is read as never delivered (log 13); that CONFIG_FAULT's drop before the third repeat counts nothing is the model's
reading (log 14). What becomes of an undelivered claim comes before its link fault (log 42). -/
def Obligations.SendsAreDeliveredRepeatedOrGivenUp : Prop :=
  (∀ (s : State) dt (a1 a2 : Byte) f, s.dev.Up → s.dev.Sends f →
    let members := s.dev.pc.memberMask
    let f' : InHand :=
      { f with sending := false, sends := f.sends + 1, acked := f.acked ||| (ackSlots a1 a2 &&& members) }
    let d : Dev := { s.dev.elapse dt with biu.losses := 0, biu.consecErrors := 0, biu.line := .silent,
                                          biu.inHand := some f' }
    (f.delivered = false → members ≠ 0 → f'.acked &&& members = 0 → f.sends < 3 →
      exec (.sendComplete dt ⟨a1, a2⟩) s =
        .next (s.after dt (if s.dev.pc.presence = .configFault then d.leaveSlot f' else d))) ∧
    (f.delivered = false → members ≠ 0 → f'.acked &&& members = 0 → 3 ≤ f.sends →
      exec (.sendComplete dt ⟨a1, a2⟩) s = .next (s.after dt (Dev.linkFault .undelivered
        (Dev.leaveSlot f' { d with biu.undelivered := inc16 d.biu.undelivered })))) ∧
    (f.delivered = true → members &&& ~~~f'.acked ≠ 0 → f.sends < 3 →
      exec (.sendComplete dt ⟨a1, a2⟩) s =
        .next (s.after dt (if s.dev.pc.presence = .configFault then d.leaveSlot f' else d))) ∧
    (f.delivered = true → (members &&& ~~~f'.acked = 0 ∨ 3 ≤ f.sends) →
      exec (.sendComplete dt ⟨a1, a2⟩) s = .next (s.after dt (d.leaveSlot f'))) ∧
    (f.delivered = false → (members = 0 ∨ f'.acked &&& members ≠ 0) →
      exec (.sendComplete dt ⟨a1, a2⟩) s = .next (s.after dt
        (Dev.afterSend (Dev.deliver f' { d with biu.inHand := some { f' with delivered := true } }))))) ∧
  (∀ (e : Dev) f, e.biu.inHand = some f →
    (e.pc.memberMask &&& ~~~f.acked = 0 → e.afterSend = e.leaveSlot f) ∧
    (e.pc.memberMask &&& ~~~f.acked ≠ 0 → f.sends ≤ 3 →
      e.afterSend = if e.pc.presence = .configFault then e.leaveSlot f else e) ∧
    (e.pc.memberMask &&& ~~~f.acked ≠ 0 → 3 < f.sends → f.delivered = true → e.afterSend = e.leaveSlot f)) ∧
  (∀ (e : Dev) c, e.pc.presence = .configFault → e.linkFault c = e) ∧
  (∀ (a b : Byte) (x : Station),
    inMask (ackSlots a b) x = !(if x.toNat < 8 then a.getLsbD (7 - x.toNat) else b.getLsbD (15 - x.toNat)))

/-- What a claim that ends without delivery leaves: a cancelled entry goes with CANCELLED, an overdue one with
EXPIRED, any other returns to QUEUED with its bypass count, and a refresh clears its mark; the slot and the reserved
place are free. So ends a claim whose frame leaves its slot undelivered. Other frames leave their slot, and a
delivered claim that is finished empties its own. That the place is freed before the notice is judged is the model's
order (log 42). -/
def Obligations.UndeliveredClaimReturnsItsOrigin : Prop :=
  ∀ (d : Dev) (c : Claim),
    let freed : Dev := Dev.prompt { d with biu.outbox.claim := none, pu.goReserved := false }
    (∀ t, c.tag = some t → c.cancel = true → d.endClaim c = (freed.removeEntry t).notify (.cancelled t)) ∧
    (∀ t, c.tag = some t → c.cancel = false → d.isOverdue t = true →
      d.endClaim c = (freed.removeEntry t).notify (.expired t)) ∧
    (∀ t, c.tag = some t → c.cancel = false → d.isOverdue t = false →
      d.endClaim c = { freed with
        oqs.queue := d.oqs.queue.map (fun e => if e.tag = t then { e with staged := false } else e) }) ∧
    (c.tag = none → d.endClaim c =
      { freed with rs := d.rs.modRegion c.target.region (fun r => { r with stagedRfb := false }) }) ∧
    (∀ f, f.ref = .claim → f.delivered = true →
      d.leaveSlot f = Dev.prompt { d with biu.outbox.claim := none, biu.inHand := none, pu.goReserved := false }) ∧
    (∀ f, f.ref = .claim → f.delivered = false → d.biu.outbox.claim = some c →
      d.leaveSlot f = Dev.endClaim c { d with biu.inHand := none }) ∧
    (∀ f, f.ref ≠ .claim → d.leaveSlot f = d.finished f.ref)

/-- The slots of the outbox. A newer frame for an empty slot waits there; for a waiting frame it replaces or cancels
it by the slot's rule; for one in transmission or committed it becomes the successor, or settles against the one that
stands. A frame that returns to waiting meets its successor; one that leaves gives the slot to it. PLEA and CLEAR
cancel, as do ENQUEUE and a WITHDRAW that follows; in the other slots the newer frame wins. A newer answer group
discards what waits of the older. A placed RELEASE withdraws the EXTEND and HOLDING for its handle where they wait, at
the end of their attempt where it does not send them, and a delivered CAL claim a waiting REQUEUE. That a successor
EXTEND, and a HOLDING for the handle in a newer group that waits, go with the RELEASE is the model's reading (log 37).
-/
def Obligations.SlotsSettleNewerFrames : Prop :=
  (∀ (α : Type) (merge : α → α → Option α) (s : Slot α) (c : OutFrame α) (x y : α),
    let waits := fun (z : Option α) => ({ content := z.map (fun b => { body := b, seq := none }), next := none } : Slot α)
    (s.content = none → ∀ busy, s.place busy merge x = waits (some x)) ∧
    (s.content = some c → s.place false merge x = waits (merge c.body x)) ∧
    (s.content = some c → s.next = none → s.place true merge x = { s with next := some x }) ∧
    (s.content = some c → s.next = some y → s.place true merge x = { s with next := merge y x }) ∧
    (s.content = some c → s.next = some y → s.returned merge = waits (merge c.body y)) ∧
    (s.next = none → s.returned merge = s) ∧ s.freed = waits s.next) ∧
  ((∀ a b, pleaMerge a b = if a = b then some b else none) ∧ intentMerge .enqueue .withdraw = none ∧
    (∀ a b, ¬ (a = .enqueue ∧ b = .withdraw) → intentMerge a b = some b)) ∧
  (∀ (b : Biu),
    (∀ k, b.placePlea k = { b with outbox.plea := b.outbox.plea.place (b.inHandIs .plea) pleaMerge k }) ∧
    (∀ a, b.placeIntent a = { b with outbox.intent := b.outbox.intent.place (b.inHandIs .intent) intentMerge a }) ∧
    b.placeBeacon =
      { b with outbox.beacon := b.outbox.beacon.place (b.inHandIs .beacon) (fun _ x => some x) () } ∧
    b.placeResync =
      { b with outbox.resync := b.outbox.resync.place (b.inHandIs .resync) (fun _ x => some x) () } ∧
    (∀ k, b.placeJoin k =
      { b with outbox.joinLeave := b.outbox.joinLeave.place (b.inHandIs .joinLeave) (fun _ x => some x) k }) ∧
    (∀ h n, (∀ e ∈ b.outbox.extend, e.handle ≠ h) →
      b.placeExtend h n = { b with outbox.extend := b.outbox.extend ++
        [{ handle := h, slot := { content := some { body := n, seq := none }, next := none } }] }) ∧
    (∀ h n e, b.outbox.extend.find? (fun e => e.handle == h) = some e →
      b.placeExtend h n = { b with outbox.extend := b.outbox.extend.filter (fun e => e.handle != h) ++
        [{ handle := h, slot := e.slot.place (b.inHandIs (.extend h)) (fun _ x => some x) n }] }) ∧
    (∀ g, b.answerBusy = false → b.placeAnswer g = { b with outbox.answer := { group := g, next := none } }) ∧
    (∀ g, b.answerBusy = true → b.placeAnswer g = { b with outbox.answer :=
      { group := { summary := if b.inHandIs .summary then b.outbox.answer.group.summary else none,
                   holdings := b.outbox.answer.group.holdings.filter (fun x => b.inHandIs (.holding x.body)) },
        next := some g } })) ∧
  (∀ (b : Biu) h o,
    let b' := b.placeRelease h o
    b'.outbox.release = b.outbox.release ++ [{ handle := h, outcome := o, seq := none }] ∧
    (b.inHandIs (.extend h) = false → b'.outbox.extend = b.outbox.extend.filter (fun e => e.handle != h)) ∧
    (b.inHandIs (.extend h) = true → b'.outbox.extend =
      b.outbox.extend.map (fun e => if e.handle = h then { e with slot.next := none } else e)) ∧
    (b.inHandIs (.holding h) = false → b'.outbox.answer.group.holdings =
      b.outbox.answer.group.holdings.filter (fun x => x.body != h)) ∧
    (b.inHandIs (.holding h) = true → b'.outbox.answer.group = b.outbox.answer.group) ∧
    b'.outbox.answer.group.summary = b.outbox.answer.group.summary ∧
    b'.outbox.answer.next =
      b.outbox.answer.next.map (fun g => { g with holdings := g.holdings.filter (fun x => x.body != h) }) ∧
    b' = { b with outbox := { b.outbox with
      release := b'.outbox.release, extend := b'.outbox.extend, answer := b'.outbox.answer } }) ∧
  (∀ (o : Outbox) h,
    let atHandle := fun (f : Slot Byte → Slot Byte) (e : ExtFrame) =>
      if e.handle = h then { e with slot := f e.slot } else e
    (o.hasRelease h = true ↔ ∃ r ∈ o.release, r.handle = h) ∧
    o.backToWaiting (.release h) = o ∧
    (o.hasRelease h = false →
      o.backToWaiting (.extend h) = { o with extend := o.extend.map (atHandle (Slot.returned (fun _ x => some x))) } ∧
      (o.answer.next = none → o.backToWaiting (.holding h) = o)) ∧
    (∀ g, o.answer.next = some g → o.backToWaiting (.holding h) = { o with answer := { group := g, next := none } }) ∧
    o.backToWaiting .resync = { o with resync := o.resync.returned (fun _ x => some x) } ∧
    (o.answer.next = none → o.backToWaiting .summary = o) ∧
    (o.hasRelease h = true →
      o.backToWaiting (.extend h) = { o with extend := o.extend.filter (fun e => e.handle != h) } ∧
      (o.answer.next = none → o.backToWaiting (.holding h) =
        { o with answer.group.holdings := o.answer.group.holdings.filter (fun x => x.body != h) })) ∧
    o.backToWaiting .plea = { o with plea := o.plea.returned pleaMerge } ∧
    o.backToWaiting .intent = { o with intent := o.intent.returned intentMerge } ∧
    o.backToWaiting .beacon = { o with beacon := o.beacon.returned (fun _ x => some x) } ∧
    o.backToWaiting .joinLeave = { o with joinLeave := o.joinLeave.returned (fun _ x => some x) } ∧
    (∀ g, o.answer.next = some g → o.backToWaiting .summary = { o with answer := { group := g, next := none } }) ∧
    o.remove .plea = { o with plea := o.plea.freed } ∧ o.remove .intent = { o with intent := o.intent.freed } ∧
    o.remove .beacon = { o with beacon := o.beacon.freed } ∧
    o.remove .resync = { o with resync := o.resync.freed } ∧
    o.remove (.extend h) =
      { o with extend := (o.extend.map (atHandle Slot.freed)).filter (fun e => e.slot.content.isSome) } ∧
    (o.answer.next = none →
      o.remove .summary = { o with answer.group.summary := none } ∧
      o.remove (.holding h) =
        { o with answer.group.holdings := o.answer.group.holdings.filter (fun x => x.body != h) }) ∧
    (∀ g, o.answer.next = some g →
      o.remove .summary = { o with answer := { group := g, next := none } } ∧
      o.remove (.holding h) = { o with answer := { group := g, next := none } }) ∧
    o.remove .joinLeave = { o with joinLeave := o.joinLeave.freed } ∧
    o.remove (.release h) = { o with release := o.release.filter (fun r => r.handle != h) }) ∧
  (∀ (b : Biu) q, b.outbox.intent.content = some q →
    (b.inHandIs .intent = false → q.body = .requeue → b.withdrawRequeue = { b with outbox.intent := Slot.empty }) ∧
    (b.inHandIs .intent = true ∨ q.body ≠ .requeue → b.withdrawRequeue = b))

/-- What the frames a BUS_FREE may offer carry, taken as the part stands at that attempt: a BEACON the digest and the
syncing flag; a SUMMARY the own plea, the own calibration entry with its ticket, the number of HOLDING frames still in
its group and next-ticket; a HOLDING, once its SUMMARY has left, the record, the ended periods and the remaining
lease; an INTENT next-ticket, or for WITHDRAW the ticket of the own entry, in MEMBER alone; JOIN the budget code and
version 1; RELEASE, EXTEND, PLEA, CLEAR, RESYNC and LEAVE what was placed. A lease at its very end counts as one unit
left (log 19). -/
def Obligations.OwnFramesCarryTheStateAsItStands : Prop :=
  (∀ (d : Dev) c, d.biu.outbox.beacon.content = some c → ∃ flags : Byte,
    d.offerBeacon = some { ref := .beacon, body := .beacon d.ht.digest flags, seq := c.seq } ∧
    (flags.getLsbD 7 = true ↔ d.pc.presence = .syncing ∨ d.pc.presence = .linkFault) ∧
    flags.extractLsb' 2 5 = 0 ∧ flags.extractLsb' 0 2 = d.pc.budget) ∧
  (∀ (d : Dev) q, d.biu.outbox.answer.group.summary = some q → d.biu.outbox.answer.group.holdings.length ≤ 2 →
    ∃ flags : Byte,
    let own := (d.ht.calQueue.find? (fun e => e.1 == d.pc.station)).map Prod.snd
    d.offerSummary = some { ref := .summary, body := .summary flags (own.getD 0) d.ht.nextTicket, seq := q } ∧
    d.offerHolding = none ∧ flags.getLsbD 7 = inMask d.ht.pleas d.pc.station ∧ flags.getLsbD 6 = own.isSome ∧
    (flags.extractLsb' 4 2).toNat = d.biu.outbox.answer.group.holdings.length ∧
    flags.extractLsb' 2 2 = 0 ∧ flags.extractLsb' 0 2 = d.pc.budget) ∧
  (∀ (d : Dev) f rest h p, d.biu.outbox.answer.group.summary = none → d.biu.outbox.answer.group.holdings = f :: rest →
    d.ownHolding? f.body = some h → h.holder = .own p →
    let remaining := match p.leaseEnds with | some e => max 1 ((e - d.now + 399) / 400) | none => 1
    let body : Body :=
      .holding h.handle h.cls.code (nat8 h.cls.units) h.target.byte (nat8 (p.period - 1)) (nat8 remaining)
    d.offerHolding = some { ref := .holding f.body, body := body, seq := f.seq }) ∧
  (∀ t : Target, t.byte.toNat = 16 * t.region.toNat + t.group.toNat ∧ Target.ofByte t.byte = t) ∧
  (∀ (d : Dev) c, d.biu.outbox.intent.content = some c →
    (d.pc.presence ≠ .member → d.offerIntent = none) ∧
    let own := (d.ht.calQueue.find? (fun e => e.1 == d.pc.station)).map Prod.snd
    let body : Body :=
      match c.body with
      | .enqueue => .intent 0 d.ht.nextTicket
      | .requeue => .intent 2 d.ht.nextTicket
      | .withdraw => .intent 1 (own.getD 0)
    (d.pc.presence = .member → d.offerIntent = some { ref := .intent, body := body, seq := c.seq })) ∧
  (∀ (d : Dev) c, d.biu.outbox.joinLeave.content = some c →
    (c.body = .join → d.offerJoin .join =
      some { ref := .joinLeave, body := .join (d.pc.budget.setWidth 8) 1, seq := c.seq } ∧ d.offerJoin .leave = none) ∧
    (c.body = .leave → d.offerJoin .leave = some { ref := .joinLeave, body := .leave, seq := c.seq } ∧
      d.offerJoin .join = none)) ∧
  (∀ (o : Outbox),
    (∀ r rest, o.release = r :: rest →
      let code := match r.outcome with | .ok => 0 | .fail => 1 | .cancelled => 2 | .forced => 3
      o.offerRelease = some { ref := .release r.handle, body := .release r.handle code, seq := r.seq }) ∧
    (∀ e rest c, o.extend = e :: rest → e.slot.content = some c →
      o.offerExtend = some { ref := .extend e.handle, body := .extend e.handle c.body, seq := c.seq }) ∧
    (∀ c, o.plea.content = some c →
      o.offerPlea = some { ref := .plea, body := (match c.body with | .plea => .plea | .clear => .clear), seq := c.seq }) ∧
    (∀ c, o.resync.content = some c → o.offerResync = some { ref := .resync, body := .resync, seq := c.seq }) ∧
    (o.release = [] → o.offerRelease = none) ∧ (o.extend = [] → o.offerExtend = none) ∧
    (o.plea.content = none → o.offerPlea = none) ∧ (o.resync.content = none → o.offerResync = none)) ∧
  (∀ (d : Dev), (d.biu.outbox.beacon.content = none → d.offerBeacon = none) ∧
    (d.biu.outbox.intent.content = none → d.offerIntent = none) ∧
    (d.biu.outbox.answer.group.summary = none → d.offerSummary = none) ∧
    (d.biu.outbox.answer.group.holdings = [] → d.offerHolding = none) ∧
    (d.biu.outbox.joinLeave.content = none → ∀ k, d.offerJoin k = none))

/-- The own claim is delivered, every other member having acknowledged it: the delivery time joins the surge history,
the own record joins the list (a full list loses its earliest peer record, the first in canonical order among equals,
and is a contest, and so, on a repeat, is held above B or a second CAL), the local entry or the mark goes, and GO
takes its place with the lease running; a cancelled claim gets no GO and no lease, and RELEASE CANCELLED is placed.
The alert of a contest comes before GO (log 16). It comes before a cancelled claim's reservation lapses too (log 42).
-/
def Obligations.OwnClaimDeliveryMakesAHolding : Prop :=
  (∀ (s : State) dt a1 a2 f c, s.dev.Up → s.dev.AllAcknowledge f (ackSlots a1 a2) →
    f.ref = .claim → isClaimFrame f.body = true → s.dev.biu.outbox.claim = some c →
    let d := Dev.sentToAll f (ackSlots a1 a2) (s.dev.elapse dt)
    let own := d.pc.station
    let stored : Dev := { d with
      ht.surge := surgeAdd d.now d.ht.surge,
      ht.holdings := insertHolding
        { station := own, handle := c.handle, cls := c.cls, target := c.target, extensions := 0,
          holder := .own { goSent := !c.cancel, leaseEnds := if c.cancel then none else some (d.now + leaseTime c.cls),
                           period := 1, done := none, tag := c.tag } }
        (makeRoom d.ht.holdings) }
    let timed : Dev :=
      if c.cls = .cal then { stored with ht.headTimer := none, biu := stored.biu.withdrawRequeue } else stored
    let judged : Dev :=
      if 32 ≤ d.ht.holdings.length ∨
          (1 ≤ f.sends ∧ (timed.units < heldUnits timed.ht.holdings ∨ 2 ≤ calRecords timed.ht.holdings)) then
        timed.contest own
      else timed
    let granted : Dev :=
      match c.tag with
      | some t => { judged with oqs.queue := judged.oqs.queue.filter (fun e => e.tag != t) }
      | none => judged.modRegion c.target.region (fun r => { r with stagedRfb := false })
    let told : Dev :=
      if c.cancel then { granted with pu.goReserved := false, biu := granted.biu.placeRelease c.handle .cancelled }
      else Dev.notifyGo (.go c.handle c.cls c.tag c.target (leaseMicros c.cls)) granted
    exec (.sendComplete dt ⟨a1, a2⟩) s =
      .next (s.after dt (Dev.prompt { told with biu.outbox.claim := none, biu.inHand := none, pu.goReserved := false }))) ∧
  (∀ (h : Holding) l, Canonical l → Canonical (insertHolding h l) ∧
    ∀ x, x ∈ insertHolding h l ↔ x = h ∨ (x ∈ l ∧ ¬ (x.station = h.station ∧ x.handle = h.handle))) ∧
  (∀ l : List Holding, (l.length < 32 → makeRoom l = l) ∧
    ((∀ x ∈ l, x.isOwn = true) → makeRoom l = l) ∧
    (∀ pre p post b e, 32 ≤ l.length → Canonical l → l = pre ++ p :: post → p.holder = .peer b e →
      (∀ x ∈ pre, ∀ b' e', x.holder = .peer b' e' → e < e') →
      (∀ x ∈ post, ∀ b' e', x.holder = .peer b' e' → e ≤ e') → makeRoom l = pre ++ post))

/-- The own RELEASE is delivered: the record goes, a CAL gives up the own place in the calibration queue, CANCELLED is
notified for a cancelled holding, and for a refresh with outcome OK alone the debt falls by 1 to no less than −8 and
the pointer advances, with the urgency evaluation. A selection that follows is made at the close of the step (log 11).
-/
def Obligations.OwnReleaseDeliveryEndsTheHolding : Prop :=
  ∀ (s : State) dt a1 a2 f h o x, s.dev.Up → s.dev.AllAcknowledge f (ackSlots a1 a2) →
    f.ref = .release h → f.body = .release h (RelOutcome.code o) →
    findHolding s.dev.pc.station h s.dev.ht.holdings = some x →
    let d := Dev.sentToAll f (ackSlots a1 a2) (s.dev.elapse dt)
    let dropped : Dev := { d with
      ht.holdings := d.ht.holdings.filter (fun y => !(y.station == d.pc.station && y.handle == h)),
      ht.calQueue := if x.cls = .cal then d.ht.calQueue.filter (fun e => e.1 != d.pc.station) else d.ht.calQueue }
    let told : Dev :=
      match o, x.part.bind OwnPart.tag with
      | .cancelled, some t => dropped.notify (.cancelled t)
      | _, _ => dropped
    let credited : Dev :=
      if x.cls = .rfb ∧ o = .ok then
        (told.modRegion x.target.region (fun r =>
          if r.exempt then r else { r with debt := max (-8) (r.debt - 1), pointer := r.pointer + 1 })).evalUrgency
      else told
    exec (.sendComplete dt ⟨a1, a2⟩) s = .next (s.after dt (Dev.finished (.release h) credited.prompt))

/-- The own EXTEND, PLEA, CLEAR and INTENT are applied to the own replica at delivery, as a peer's would be; an own
SUMMARY, HOLDING or BEACON changes nothing. -/
def Obligations.OwnFramesReachTheOwnReplica : Prop :=
  ∀ (s : State) dt a1 a2 f, s.dev.Up → s.dev.AllAcknowledge f (ackSlots a1 a2) → f.ref ≠ .claim →
    let d := Dev.sentToAll f (ackSlots a1 a2) (s.dev.elapse dt)
    let own := d.pc.station
    (∀ h n, f.body = .extend h n →
      exec (.sendComplete dt ⟨a1, a2⟩) s = .next (s.after dt (Dev.finished f.ref (Dev.prompt
        { d with
          ht.holdings := d.ht.holdings.map
            (fun x => if x.station = own ∧ x.handle = h then { x with extensions := n } else x) })))) ∧
    (f.body = .plea →
      exec (.sendComplete dt ⟨a1, a2⟩) s =
        .next (s.after dt (Dev.finished f.ref (Dev.prompt { d with ht.pleas := d.ht.pleas ||| maskBit own })))) ∧
    (f.body = .clear →
      exec (.sendComplete dt ⟨a1, a2⟩) s =
        .next (s.after dt (Dev.finished f.ref (Dev.prompt { d with ht.pleas := d.ht.pleas &&& ~~~maskBit own })))) ∧
    (∀ t, f.body = .intent 0 t →
      exec (.sendComplete dt ⟨a1, a2⟩) s = .next (s.after dt (Dev.finished f.ref (Dev.prompt
        { d with ht.calQueue := if d.ht.calQueue.any (fun e => e.1 == own) then d.ht.calQueue
                                else d.ht.calQueue ++ [(own, t)],
                 ht.nextTicket := t + 1 })))) ∧
    (∀ t, f.body = .intent 1 t →
      exec (.sendComplete dt ⟨a1, a2⟩) s = .next (s.after dt (Dev.finished f.ref (Dev.prompt
        { d with ht.calQueue := d.ht.calQueue.filter (fun e => e.1 != own) })))) ∧
    (∀ t, f.body = .intent 2 t →
      exec (.sendComplete dt ⟨a1, a2⟩) s = .next (s.after dt (Dev.finished f.ref (Dev.prompt
        { d with ht.calQueue := d.ht.calQueue.filter (fun e => e.1 != own) ++ [(own, t)],
                 ht.nextTicket := t + 1,
                 ht.headTimer :=
                   if d.pc.presence = .member ∧ d.ht.calQueue.filter (fun e => e.1 != own) = [] then
                     some (d.now + us 20000)
                   else d.ht.headTimer })))) ∧
    ((kindOf f.body).toNat = 7 ∨ (kindOf f.body).toNat = 8 ∨ (kindOf f.body).toNat = 10 →
      exec (.sendComplete dt ⟨a1, a2⟩) s = .next (s.after dt (Dev.finished f.ref d)))

/-- The own JOIN is delivered: MEMBER at once in the solo case, else SYNCING with its collect window and the beacon
timer. The own LEAVE is delivered in LEAVING: the replica is cleared with the plea mark, CANCELLED notified for each
CANCELLING holding that ends with it, in an order that is the model's choice (log 41), the outbox emptied but for the
LEAVE, DETACHED entered; in LINK_FAULT and CONFIG_FAULT none of this. Every replica clear leaves the same of the board
view. The own RESYNC is delivered while SYNCING: everything of other stations goes and the collect window opens,
complete at once where no other member is known. Each frame acts in the state that awaits it (logs 26, 34). -/
def Obligations.OwnPresenceFramesMoveTheStation : Prop :=
  ∀ (s : State) dt a1 a2 f, s.dev.AllAcknowledge f (ackSlots a1 a2) →
    let d := Dev.sentToAll f (ackSlots a1 a2) (s.dev.elapse dt)
    (∀ b v, s.dev.pc.presence = .joining → f.ref ≠ .claim → f.body = .join b v → s.dev.pc.memberMask = 0 →
      exec (.sendComplete dt ⟨a1, a2⟩) s = .next (s.after dt (Dev.finished f.ref d.enterMember))) ∧
    (∀ b v, s.dev.pc.presence = .joining → f.ref ≠ .claim → f.body = .join b v → s.dev.pc.memberMask ≠ 0 →
      exec (.sendComplete dt ⟨a1, a2⟩) s = .next (s.after dt (Dev.finished f.ref
        { d with pc.presence := .syncing, pc.syncCause := some .join, pc.beaconEnds := some (d.now + us 2000),
                 pc.window := some { ends := d.now + us 4000, tallies := Vector.replicate 16 Tally.fresh },
                 pu := d.pu.push (.state .syncing) }))) ∧
    (s.dev.pc.presence = .leaving → f.ref = .joinLeave → f.body = .leave →
      exec (.sendComplete dt ⟨a1, a2⟩) s = .next (s.after dt (Dev.finished .joinLeave
        { d with ht := d.ht.clearedView, rs.pleaMark := .none,
                 biu.outbox := { Outbox.empty with joinLeave := d.biu.outbox.joinLeave },
                 pc.presence := .detached, pc.beaconEnds := none,
                 pu := (d.pu.cancelled d.cancellingTags).push (.state .detached) }))) ∧
    (s.dev.pc.presence = .linkFault ∨ s.dev.pc.presence = .configFault → f.ref = .joinLeave → f.body = .leave →
      exec (.sendComplete dt ⟨a1, a2⟩) s = .next (s.after dt (Dev.finished .joinLeave d))) ∧
    (∀ e : Dev, e.clearReplica =
      { e with ht := e.ht.clearedView, rs.pleaMark := .none, pu := e.pu.cancelled e.cancellingTags }) ∧
    (s.dev.pc.presence = .syncing → f.ref ≠ .claim → f.body = .resync → s.dev.pc.window = none →
      exec (.sendComplete dt ⟨a1, a2⟩) s = .next (s.after dt (Dev.finished f.ref (Dev.checkAnswers (Dev.prompt
        { d with ht.holdings := d.ht.holdings.filter (fun x => x.isOwn), ht.pleas := d.ht.pleas &&& maskBit d.pc.station,
                 ht.calQueue := d.ht.calQueue.filter (fun e => e.1 == d.pc.station),
                 pc.window := some { ends := d.now + us 4000, tallies := Vector.replicate 16 Tally.fresh } })))))

/-! ### Frames received -/

/-- A frame built by its sender is read back as the same head and content, whatever its kind, operands, patience and
fresh flag, unless a claim's class or units are wrong, which check 5 discards. Its header holds kind, patience, fresh
flag, station, length and sequence number in their bits; the CRC takes each byte most significant bit first; and the
sender drives every acknowledgement slot recessive, an acknowledging station its own slot alone dominant. -/
def Obligations.FrameReadsBackAsSent : Prop :=
  (∀ (patience : BitVec 3) (fresh : Bool) (st : Station) (seq : Byte) (b : Body) (raw : RawFrame),
    raw.syncOk = true →
    [raw.byte0, raw.byte1, raw.byte2] ++ raw.payload ++ [raw.crc] = frameBytes patience fresh st seq b →
    (b.costOk = true → raw.read = some ({ station := st, fresh := fresh, seq := seq }, b)) ∧
    (b.costOk = false → raw.read = none)) ∧
  (∀ (patience : BitVec 3) (fresh : Bool) (st : Station) (seq : Byte) (b : Body), ∃ b0 b1 : Byte,
    let front := [b0, b1, seq] ++ payloadOf b
    frameBytes patience fresh st seq b = front ++ [crc8 front] ∧
    drivenBytes patience fresh st seq b = frameBytes patience fresh st seq b ++ [0xFF, 0xFF] ∧
    b0.extractLsb' 4 4 = kindOf b ∧ b0.extractLsb' 1 3 = patience ∧ b0.getLsbD 0 = fresh ∧
    b1.extractLsb' 4 4 = st ∧ (b1.extractLsb' 0 4).toNat = (payloadOf b).length) ∧
  (∀ (bs : List Byte) (b : Byte), crc8 [] = 0xFF ∧
    crc8 (bs ++ [b]) = (List.range 8).foldl
      (fun (r : Byte) i => if r.getLsbD 7 != b.getLsbD (7 - i) then (r <<< 1) ^^^ 0x07 else r <<< 1) (crc8 bs)) ∧
  (∀ own : Station, ∃ a b : Byte, slotBytes (maskBit own) = [a, b] ∧
    ∀ x : Station, inMask (ackSlots a b) x = true ↔ x = own)

/-- The seven checks of R35, the repeat, and application. A frame that fails a sync position, its length, its CRC, its
kind or its claim cost is discarded and counted: nothing else of the part changes. In CONFIG_FAULT nothing more is
taken. A frame of the own number leads into CONFIG_FAULT; a SILENT sender's frame but a JOIN is neither acknowledged
nor applied; a repeat of the frame last applied is acknowledged again and renews last heard alone; a configuration
fault is not acknowledged; every other frame is acknowledged in the own slot and applied. Each command of a received
frame, and FRAME_REJECTED for bytes that pass checks 1 to 5, comes here with its frame. That a frame is taken whenever
its command comes, and that bytes are routed so, is the model's (logs 10, 20). -/
def Obligations.ReceiverDiscardsAcknowledgesOrRepeats : Prop :=
  (∀ (s : State) dt raw, s.dev.Up → raw.read = none →
      exec (.frameRejected dt raw) s = .next (s.after dt
        { s.dev.elapse dt with biu.busFree := false, biu.line := .silent, biu.rxDiscards := inc16 s.dev.biu.rxDiscards })) ∧
  (∀ (s : State) dt raw hd b, s.dev.Up → raw.read = some (hd, b) →
      exec (.frameRejected dt raw) s = .next (s.after dt ((s.dev.elapse dt).receive hd b))) ∧
  (∀ (c : Instr) (s : State) dt hd b, s.dev.Up → frameOf c = some (dt, hd, b) →
      exec c s = .next (s.after dt ((s.dev.elapse dt).receive hd b))) ∧
  (∀ raw : RawFrame, (raw.syncOk = false ∨ 8 < raw.length ∨ raw.payload.length ≠ raw.length ∨
      crc8 ([raw.byte0, raw.byte1, raw.byte2] ++ raw.payload) ≠ raw.crc ∨ 13 ≤ (raw.byte0.extractLsb' 4 4).toNat ∨
      ∀ b, kindOf b = raw.byte0.extractLsb' 4 4 → (payloadOf b).length ≠ raw.payload.length) → raw.read = none) ∧
  (∀ (raw : RawFrame) hd b, raw.read = some (hd, b) → b.costOk = true) ∧
  (∀ (d : Dev) (hd : Head) (b : Body),
      let quiet : Dev := { d with biu.busFree := false, biu.line := .silent }
      let slot : Dev :=
        { d with biu.busFree := false, biu.line := .ack (slotBytes (maskBit d.pc.station)) }
      let other := d.pc.presence ≠ .configFault ∧ hd.station ≠ d.pc.station
      let heard := (d.pc.rosterAt hd.station).state ≠ .silent ∨ isJoinFrame b = true
      (b.costOk = false → d.receive hd b = { quiet with biu.rxDiscards := inc16 d.biu.rxDiscards }) ∧
      (b.costOk = true → d.pc.presence = .configFault → d.receive hd b = quiet) ∧
      (b.costOk = true → d.pc.presence ≠ .configFault → hd.station = d.pc.station →
        d.receive hd b = quiet.configFault .duplicateStation) ∧
      (b.costOk = true → other → ¬ heard → d.receive hd b = quiet) ∧
      (b.costOk = true → other → heard → d.isRepeat hd = true →
        d.receive hd b = Dev.modRoster hd.station (fun r => { r with lastHeard := some d.now }) slot) ∧
      (∀ c, b.costOk = true → other → heard → d.isRepeat hd = false → cfgCheck d.pc.budget b = some c →
        d.receive hd b = quiet.configFault c) ∧
      (b.costOk = true → other → heard → d.isRepeat hd = false → cfgCheck d.pc.budget b = none →
        d.receive hd b = Dev.applyFrame hd b slot) ∧
      (d.isRepeat hd = true ↔ hd.fresh = false ∧ (d.pc.rosterAt hd.station).lastApplied = some hd.seq))

/-- Without a board view (LISTENING, JOINING, DETACHED) a frame heard is acknowledged and updates the roster alone:
last heard, last applied, ABSENT to MEMBER. What hearing a sender does to its record, and to no other. -/
def Obligations.FramesWithoutAViewUpdateTheRosterAlone : Prop :=
  (∀ (s : State) dt hd, s.dev.pc.presence.keepsView = false → s.dev.Hears hd →
      let after := .next (s.after dt (Dev.heard hd (s.dev.elapse dt)))
      (∀ h c t, exec (.claimReceived dt hd h (Cls.code c) (nat8 c.units) t) s = after ∧
        exec (.urgentClaimReceived dt hd h (Cls.code c) (nat8 c.units) t) s = after) ∧
      (∀ a b, exec (.releaseReceived dt hd a b) s = after ∧ exec (.extendReceived dt hd a b) s = after) ∧
      exec (.pleaReceived dt hd) s = after ∧ exec (.clearReceived dt hd) s = after ∧
      exec (.resyncReceived dt hd) s = after ∧
      (∀ t, exec (.intentEnqueueReceived dt hd t) s = after ∧ exec (.intentRequeueReceived dt hd t) s = after ∧
        exec (.intentWithdrawReceived dt hd t) s = after) ∧
      (∀ h c u t e r, exec (.holdingReceived dt hd h c u t e r) s = after) ∧
      (∀ f t n, budgetBits f = s.dev.pc.budget → exec (.summaryReceived dt hd f t n) s = after) ∧
      (∀ g f, budgetBits f = s.dev.pc.budget → exec (.beaconReceived dt hd g f) s = after)) ∧
  (∀ (hd : Head) (d : Dev) (x : Station),
      (Dev.heard hd d).pc.rosterAt x =
        (if x = hd.station then
          { d.pc.rosterAt x with lastHeard := some d.now, lastApplied := some hd.seq,
                                 state := if (d.pc.rosterAt x).state = .absent then .member else (d.pc.rosterAt x).state }
        else d.pc.rosterAt x) ∧
      Dev.heard hd d = { d with biu.busFree := false, biu.line := .ack (slotBytes (maskBit d.pc.station)),
                                pc.roster := (Dev.heard hd d).pc.roster })

/-- A peer's claim where a view is kept: soft contest judged before, then the receipt time, the record with its expiry
at the lease limit and 2,000 µs (none in a full list without its key), and a contest where held exceeds B, two CALs
stand, or the list was full. Target bits marked 0 are not kept (log 18). -/
def Obligations.ReceivedClaimIsStored : Prop :=
  ∀ (s : State) dt hd urgent h (c : Cls) t, s.dev.pc.presence.keepsView = true → s.dev.Hears hd →
    let d := s.dev.elapse dt
    let full := 32 ≤ d.ht.holdings.length ∧ findHolding hd.station h d.ht.holdings = none
    let judged : Dev :=
      if d.softContest hd.station urgent c then
        d.modRoster hd.station (fun r => { r with softContests := inc16 r.softContests })
      else d
    let stored : Dev := { judged with
      ht.surge := surgeAdd d.now d.ht.surge,
      ht.holdings :=
        if full then d.ht.holdings
        else insertHolding
          { station := hd.station, handle := h, cls := c, target := Target.ofByte t, extensions := 0,
            holder := .peer d.now (d.now + leaseTime c + us 2000) } d.ht.holdings }
    let settled : Dev :=
      if full ∨ stored.units < heldUnits stored.ht.holdings ∨ 2 ≤ calRecords stored.ht.holdings then
        stored.contest hd.station
      else stored
    (d.softContest hd.station urgent c = true ↔
      (if urgent then d.free < (c.units : Int) else d.free - 4 < (c.units : Int)) ∨
      (c ≠ .rfb ∧ ∃ x, x ≠ hd.station ∧ inMask d.ht.pleas x = true) ∨ 12 ≤ d.ht.surge.length ∨
      (urgent = true ∧ c ≠ .rfb)) ∧
    exec (if urgent then .urgentClaimReceived dt hd h c.code (nat8 c.units) t
          else .claimReceived dt hd h c.code (nat8 c.units) t) s =
      .next (s.after dt (Dev.checkAnswers (Dev.heard hd settled.prompt)))

/-- A contest is counted, for a peer also in its record, and alerted; from MEMBER it starts a resync: mismatch counts
0, SYNCING with cause RESYNC, RESYNC placed, the resync count raised. In any other state the state stays. -/
def Obligations.ContestIsCountedAlertedAndRepaired : Prop :=
  ∀ (d : Dev) (x : Station),
    let counted : Dev := { d with ht.contests := inc16 d.ht.contests }
    let marked : Dev :=
      if x = d.pc.station then counted else counted.modRoster x (fun r => { r with contests := inc16 r.contests })
    let alerted : Dev := marked.notify (.alert (.contest x))
    (d.pc.presence ≠ .member → d.contest x = alerted) ∧
    (d.pc.presence = .member →
      d.contest x = { alerted with
        pc.roster := marked.pc.roster.map (fun r => { r with mismatch := 0 }), pc.presence := .syncing,
        pc.syncCause := some .resync, pc.window := none, pc.resyncs := inc16 d.pc.resyncs,
        pu := alerted.pu.push (.state .syncing), biu := d.biu.placeResync })

/-- A peer's RELEASE removes its record, a CAL's calibration entry with it, and a FORCED one is counted; an outcome
above 3 counts as FAIL. One that names no record changes nothing of the view. A peer's EXTEND with number 1 or 2, not
below the record's, sets it and moves the expiry to the basis, 1 + n lease limits and 2,000 µs; any other is ignored.
-/
def Obligations.ReceivedReleaseAndExtendChangeTheRecord : Prop :=
  (∀ (s : State) dt hd h o, s.dev.pc.presence.keepsView = true → s.dev.Hears hd →
      let d := s.dev.elapse dt
      (findHolding hd.station h d.ht.holdings = none →
        exec (.releaseReceived dt hd h o) s = .next (s.after dt (Dev.checkAnswers (Dev.heard hd d)))) ∧
      (∀ x, findHolding hd.station h d.ht.holdings = some x →
        let dropped : Dev := { d with
          ht.holdings := d.ht.holdings.filter (fun y => !(y.station == hd.station && y.handle == h)),
          ht.calQueue := if x.cls = .cal then d.ht.calQueue.filter (fun e => e.1 != hd.station) else d.ht.calQueue }
        let counted : Dev :=
          if o = 3 then dropped.modRoster hd.station (fun r => { r with forcedSeen := inc16 r.forcedSeen }) else dropped
        exec (.releaseReceived dt hd h o) s = .next (s.after dt (Dev.checkAnswers (Dev.heard hd counted.prompt))))) ∧
  (∀ (s : State) dt hd h n, s.dev.pc.presence.keepsView = true → s.dev.Hears hd →
      let d := s.dev.elapse dt
      (∀ x b e, findHolding hd.station h d.ht.holdings = some x → x.holder = .peer b e → (n = 1 ∨ n = 2) →
        x.extensions.toNat ≤ n.toNat →
        ∃ d', exec (.extendReceived dt hd h n) s =
            .next (s.after dt (Dev.checkAnswers (Dev.heard hd (Dev.prompt { d with ht.holdings := d' })))) ∧
          d' = mapHolding hd.station h (Holding.extendTo n) d.ht.holdings ∧
          x.extendTo n = { x with
            extensions := n,
            holder := .peer b (b + ((leaseTime x.cls * (1 + n.toNat) + us 2000 : Nat) : Int)).toNat }) ∧
      ((findHolding hd.station h d.ht.holdings = none ∨ (n ≠ 1 ∧ n ≠ 2) ∨
          ∃ x, findHolding hd.station h d.ht.holdings = some x ∧ n.toNat < x.extensions.toNat) →
        exec (.extendReceived dt hd h n) s = .next (s.after dt (Dev.checkAnswers (Dev.heard hd d)))))

/-- PLEA and CLEAR join and leave the plea set; ENQUEUE, REQUEUE and WITHDRAW move the sender's calibration entry, and
the first two set next-ticket to the carried ticket plus one. -/
def Obligations.ReceivedPleasAndIntentsChangeTheView : Prop :=
  ∀ (s : State) dt hd, s.dev.pc.presence.keepsView = true → s.dev.Hears hd →
    let d := s.dev.elapse dt
    let heard := fun (x : Dev) => .next (s.after dt (Dev.checkAnswers (Dev.heard hd x.prompt)))
    exec (.pleaReceived dt hd) s = heard { d with ht.pleas := d.ht.pleas ||| maskBit hd.station } ∧
    exec (.clearReceived dt hd) s = heard { d with ht.pleas := d.ht.pleas &&& ~~~maskBit hd.station } ∧
    (∀ t, exec (.intentEnqueueReceived dt hd t) s = heard { d with
      ht.calQueue := if d.ht.calQueue.any (fun e => e.1 == hd.station) then d.ht.calQueue
                     else d.ht.calQueue ++ [(hd.station, t)],
      ht.nextTicket := t + 1 }) ∧
    (∀ t, exec (.intentRequeueReceived dt hd t) s = heard { d with
      ht.calQueue := d.ht.calQueue.filter (fun e => e.1 != hd.station) ++ [(hd.station, t)],
      ht.nextTicket := t + 1 }) ∧
    (∀ t, exec (.intentWithdrawReceived dt hd t) s = heard { d with
      ht.calQueue := d.ht.calQueue.filter (fun e => e.1 != hd.station) }) ∧
    (∀ (m : BitVec 16) (x y : Station), (inMask (m ||| maskBit x) y = true ↔ inMask m y = true ∨ y = x) ∧
      (inMask (m &&& ~~~maskBit x) y = true ↔ inMask m y = true ∧ y ≠ x))

/-- A HOLDING answer confirms a record under its key or stores a new one, its expiry the remaining lease and 2,000 µs
from now; into a full list it is a contest; with a wrong class or cost it is ignored. In SYNCING it is counted once
its sender's SUMMARY was seen, up to the announced number (and to 2, log 35). Extensions are taken as carried (log
19). -/
def Obligations.ReceivedHoldingConfirmsOrStores : Prop :=
  ∀ (s : State) dt hd h (c : Cls) u t e r, s.dev.pc.presence.keepsView = true → s.dev.Hears hd →
    let d := s.dev.elapse dt
    let expiry := d.now + us (100 * r.toNat) + us 2000
    let answer := fun (k : Cls) (g : Target) => insertHolding
      { station := hd.station, handle := h, cls := k, target := g, extensions := e,
        holder := .peer ((expiry : Int) - ((leaseTime k * (1 + e.toNat) + us 2000 : Nat) : Int)) expiry } d.ht.holdings
    let counted := fun (x : Dev) =>
      if x.pc.presence = .syncing then x.modTally hd.station Tally.countHolding else x
    (u = nat8 c.units → ∀ x, findHolding hd.station h d.ht.holdings = some x →
      exec (.holdingReceived dt hd h c.code u t e r) s = .next (s.after dt (Dev.checkAnswers (Dev.prompt (counted
        { Dev.heard hd d with ht.holdings := answer x.cls x.target }))))) ∧
    (u = nat8 c.units → findHolding hd.station h d.ht.holdings = none → d.ht.holdings.length < 32 →
      exec (.holdingReceived dt hd h c.code u t e r) s = .next (s.after dt (Dev.checkAnswers (Dev.prompt (counted
        { Dev.heard hd d with ht.holdings := answer c (Target.ofByte t) }))))) ∧
    (u = nat8 c.units → findHolding hd.station h d.ht.holdings = none → 32 ≤ d.ht.holdings.length →
      exec (.holdingReceived dt hd h c.code u t e r) s = .next (s.after dt (Dev.checkAnswers (Dev.prompt (counted
        ((Dev.heard hd d).contest hd.station)))))) ∧
    (u.toNat ≠ c.units →
      exec (.holdingReceived dt hd h c.code u t e r) s = .next (s.after dt (Dev.checkAnswers (Dev.heard hd d)))) ∧
    (∀ k : Byte, 3 < k.toNat →
      exec (.holdingReceived dt hd h k u t e r) s = .next (s.after dt (Dev.checkAnswers (Dev.heard hd d)))) ∧
    (∀ (e : Dev) x g, TallyBecomes x g e (e.modTally x g)) ∧
    (∀ y : Tally, y.countHolding =
      if y.summarySeen then { y with counted := min (y.counted + 1) (min y.announced 2) } else y)

/-- A SUMMARY with the own budget code in SYNCING sets its sender's plea, places or removes its calibration entry by
distance behind next-ticket, gives next-ticket as the first of the window, and restarts the tally; in other states
with a view it updates the roster alone. -/
def Obligations.ReceivedSummaryRebuildsTheView : Prop :=
  ∀ (s : State) dt hd f t n, s.dev.pc.presence.keepsView = true → s.dev.Hears hd → budgetBits f = s.dev.pc.budget →
    let d := s.dev.elapse dt
    let x := hd.station
    let taken : Dev := { Dev.heard hd d with
      ht.pleas := if f.getLsbD 7 then d.ht.pleas ||| maskBit x else d.ht.pleas &&& ~~~maskBit x,
      ht.calQueue :=
        if f.getLsbD 6 then calInsert d.ht.nextTicket x t (d.ht.calQueue.filter (fun e => e.1 != x))
        else d.ht.calQueue.filter (fun e => e.1 != x) }
    (s.dev.pc.presence ≠ .syncing →
      exec (.summaryReceived dt hd f t n) s = .next (s.after dt (Dev.heard hd d))) ∧
    (s.dev.pc.presence = .syncing → s.dev.pc.window = none →
      exec (.summaryReceived dt hd f t n) s = .next (s.after dt taken)) ∧
    (∀ w, s.dev.pc.presence = .syncing → s.dev.pc.window = some w →
      exec (.summaryReceived dt hd f t n) s = .next (s.after dt (Dev.checkAnswers (Dev.modTally x
        (fun _ => { summarySeen := true, announced := (f.extractLsb' 4 2).toNat, counted := 0,
                    excluded := (w.tallyAt x).excluded })
        { taken with ht.nextTicket :=
            if ∀ y, (w.tallyAt y).summarySeen = false then n else d.ht.nextTicket })))) ∧
    (∀ (e : Dev) g, TallyBecomes x g e (e.modTally x g)) ∧
    (∀ next t' q, (∀ e ∈ q, (next - t').toNat ≤ (next - e.2).toNat ∧ ((next - t').toNat = (next - e.2).toNat → e.1 ≤ x)) →
      calInsert next x t' q = q ++ [(x, t')]) ∧
    (∀ next t' e q, ((next - e.2).toNat < (next - t').toNat ∨ ((next - e.2).toNat = (next - t').toNat ∧ x < e.1)) →
      calInsert next x t' (e :: q) = (x, t') :: e :: q) ∧
    (∀ next t' e q, ¬ ((next - e.2).toNat < (next - t').toNat ∨ ((next - e.2).toNat = (next - t').toNat ∧ x < e.1)) →
      calInsert next x t' (e :: q) = e :: calInsert next x t' q)

/-- RESYNC is answered in MEMBER, LEAVING, LINK_FAULT and in SYNCING with cause RESYNC: a SUMMARY and a HOLDING for
each own holding RUNNING or OVERRUN, in handle order; in the other states none is placed. A BEACON with the own budget
code: compared in MEMBER where its syncing flag is clear. A match clears its sender's count; the first mismatch is
counted, and the second in a row starts a resync. -/
def Obligations.ReceivedResyncAndBeaconRepairTheView : Prop :=
  (∀ (s : State) dt hd, s.dev.Hears hd →
      let d := s.dev.elapse dt
      let group : AnswerGroup :=
        { summary := some none,
          holdings := (d.ownHoldings.filter (fun h => (h.part.map OwnPart.awaitsDone).getD false)).map
            (fun h => { body := h.handle, seq := none }) }
      let due := s.dev.pc.presence = .member ∨ s.dev.pc.presence = .leaving ∨ s.dev.pc.presence = .linkFault ∨
        (s.dev.pc.presence = .syncing ∧ s.dev.pc.syncCause = some .resync)
      (due → exec (.resyncReceived dt hd) s = .next (s.after dt (Dev.checkAnswers
        { Dev.heard hd d with biu := (Dev.heard hd d).biu.placeAnswer group }))) ∧
      (¬ due → exec (.resyncReceived dt hd) s = .next (s.after dt (Dev.checkAnswers (Dev.heard hd d))))) ∧
  (∀ (s : State) dt hd g f, s.dev.Hears hd → budgetBits f = s.dev.pc.budget →
      let d := Dev.heard hd (s.dev.elapse dt)
      let compared := s.dev.pc.presence = .member ∧ f.getLsbD 7 = false
      (¬ compared → exec (.beaconReceived dt hd g f) s = .next (s.after dt d.checkAnswers)) ∧
      (compared → g = s.dev.ht.digest →
        exec (.beaconReceived dt hd g f) s =
          .next (s.after dt (d.modRoster hd.station (fun r => { r with mismatch := 0 })))) ∧
      (compared → g ≠ s.dev.ht.digest → (s.dev.pc.rosterAt hd.station).mismatch = 0 →
        exec (.beaconReceived dt hd g f) s =
          .next (s.after dt (d.modRoster hd.station (fun r => { r with mismatch := 1 })))) ∧
      (compared → g ≠ s.dev.ht.digest → 1 ≤ (s.dev.pc.rosterAt hd.station).mismatch →
        exec (.beaconReceived dt hd g f) s = .next (s.after dt { d with
          pc.roster := d.pc.roster.map (fun r => { r with mismatch := 0 }), pc.presence := .syncing,
          pc.syncCause := some .resync, pc.window := none, pc.resyncs := inc16 d.pc.resyncs,
          pu := d.pu.push (.state .syncing), biu := d.biu.placeResync })))

/-- A JOIN of version 1 and the own budget code renews its sender's record, SILENT or not, drops its part of the view,
and is answered where a RESYNC would be; a LEAVE resets the record to ABSENT and drops the same. Both exclude the
sender from an open window. -/
def Obligations.ReceivedJoinAndLeaveDropTheSendersPart : Prop :=
  ∀ (s : State) dt hd,
    let d : Dev :=
      { s.dev.elapse dt with biu.busFree := false, biu.line := .ack (slotBytes (maskBit s.dev.pc.station)) }
    let x := hd.station
    (∀ b, s.dev.HearsJoin hd → budgetBits b = s.dev.pc.budget →
      exec (.joinReceived dt hd b 1) s = .next (s.after dt (Dev.checkAnswers (Dev.answerIfDue (Dev.dropStation x
        (Dev.excludeTally x (d.modRoster x (fun r =>
          { r with state := .member, lastHeard := some d.now, lastApplied := some hd.seq, mismatch := 0 })))))))) ∧
    (s.dev.Hears hd →
      exec (.leaveReceived dt hd) s = .next (s.after dt (Dev.checkAnswers (Dev.dropStation x
        (Dev.excludeTally x (d.modRoster x (fun r =>
          { r with state := .absent, lastHeard := none, lastApplied := none, mismatch := 0 }))))))) ∧
    (∀ e : Dev, TallyBecomes x (fun t => { t with excluded := true }) e (e.excludeTally x)) ∧
    (∀ h : Ht, h.mentions x = true ↔
      (∃ y ∈ h.holdings, y.station = x) ∨ inMask h.pleas x = true ∨ ∃ y ∈ h.calQueue, y.1 = x) ∧
    (∀ e : Dev, e.pc.presence.keepsView = false → e.dropStation x = e) ∧
    (∀ e : Dev, e.pc.presence.keepsView = true → e.ht.mentions x = false → e.dropStation x = e) ∧
    (∀ e : Dev, e.pc.presence.keepsView = true → e.ht.mentions x = true →
      e.dropStation x = Dev.prompt
        { e with ht.holdings := e.ht.holdings.filter (fun y => y.station != x), ht.pleas := e.ht.pleas &&& ~~~maskBit x,
                 ht.calQueue := e.ht.calQueue.filter (fun y => y.1 != x) })

/-- A frame bearing the own number, a JOIN of another version or budget, and a BEACON or SUMMARY of another budget
lead into CONFIG_FAULT, unacknowledged, in every state that keeps the roster: STATE and ALERT with the cause, the
timers stopped, the outbox emptied, the plea mark NONE; the roster and the view stay. What emptying the outbox leaves:
a STAGED claim is unstaged; with a frame in transmission that stays in hand and its slot alone keeps its content,
successors discarded; with none nothing stays, and repeats that were due are given up, a claim among them ending
delivered or undelivered as it was. The order of the notices, and a claim between attempts, are the model's reading
(logs 14, 17, 25). A reserved place lapses behind STATE and ALERT (log 42). -/
def Obligations.ConfigurationFaultsAreEntered : Prop :=
  (∀ (s : State) dt hd, s.dev.pc.presence.keepsRoster = true →
    let quiet : Dev := { s.dev.elapse dt with biu.busFree := false, biu.line := .silent }
    let faulted := fun (c : CfgCause) (d : Dev) => .next (s.after dt { Dev.emptyOutbox
        { d with pc.presence := .configFault, pc.syncCause := none, pc.cfgCause := some c, pc.window := none,
                 pc.listenEnds := none, pc.beaconEnds := none,
                 pu := (d.pu.push (.state .configFault)).push (.alert (.configFault c)) } with rs.pleaMark := .none })
    exec (.frameBearingOwnNumber dt) s = faulted .duplicateStation quiet ∧
    (∀ c b, frameOf c = some (dt, hd, b) → hd.station = s.dev.pc.station → b.costOk = true →
      exec c s = faulted .duplicateStation quiet) ∧
    (s.dev.HearsJoin hd →
      (∀ b v, v ≠ 1 → exec (.joinReceived dt hd b v) s = faulted .versionMismatch quiet) ∧
      (∀ b, budgetBits b ≠ s.dev.pc.budget → exec (.joinReceived dt hd b 1) s = faulted .budgetMismatch quiet)) ∧
    (s.dev.Hears hd →
      (∀ g f, budgetBits f ≠ s.dev.pc.budget → exec (.beaconReceived dt hd g f) s = faulted .budgetMismatch quiet) ∧
      (∀ f t n, budgetBits f ≠ s.dev.pc.budget →
        exec (.summaryReceived dt hd f t n) s = faulted .budgetMismatch quiet))) ∧
  (∀ (d : Dev),
    let bare : Dev := { d.anyUnstaged with biu.outbox := Outbox.empty, biu.inHand := none }
    (d.biu.inHand = none → d.emptyOutbox = bare) ∧
    (∀ f, d.biu.inHand = some f → f.sending = false → f.ref ≠ .claim → d.emptyOutbox = bare) ∧
    (∀ f, d.Sends f → f.ref ≠ .claim →
      d.emptyOutbox = { d.anyUnstaged with biu.outbox := d.biu.outbox.only f.ref }) ∧
    (∀ f c, d.biu.inHand = some f → f.ref = .claim → d.biu.outbox.claim = some c →
      (f.sending = true → d.emptyOutbox = { d with biu.outbox := { Outbox.empty with claim := some c } }) ∧
      (f.sending = false → f.delivered = true → d.emptyOutbox =
        Dev.prompt { d with biu.outbox := Outbox.empty, biu.inHand := none, pu.goReserved := false }) ∧
      (f.sending = false → f.delivered = false → d.emptyOutbox =
        { d.endClaim c with biu.outbox := Outbox.empty, biu.inHand := none }))) ∧
  (∀ (o : Outbox) h,
    o.only (.release h) = { Outbox.empty with release := o.release.filter (fun r => r.handle == h) } ∧
    o.only (.extend h) = { Outbox.empty with
      extend := (o.extend.filter (fun e => e.handle == h)).map (fun e => { e with slot.next := none }) } ∧
    o.only .plea = { Outbox.empty with plea := { o.plea with next := none } } ∧
    o.only .intent = { Outbox.empty with intent := { o.intent with next := none } } ∧
    o.only .summary =
      { Outbox.empty with answer := { group := { summary := o.answer.group.summary, holdings := [] }, next := none } } ∧
    o.only (.holding h) = { Outbox.empty with answer :=
      { group := { summary := none, holdings := o.answer.group.holdings.filter (fun x => x.body == h) },
        next := none } } ∧
    o.only .resync = { Outbox.empty with resync := { o.resync with next := none } } ∧
    o.only .beacon = { Outbox.empty with beacon := { o.beacon with next := none } } ∧
    o.only .joinLeave = { Outbox.empty with joinLeave := { o.joinLeave with next := none } })

/-! ### Timers and conditions -/

/-- The listen window ends: JOIN is placed and JOINING entered with STATE. The collect timer ends: MEMBER is entered.
The beacon timer ends: a BEACON is placed and the timer restarts at 2,000 µs from its end (log 2). LEAVE is placed,
once, in LEAVING when no own holding, RELEASE or claim remains. The clauses by which an end of a timer that does not
run, and OWN_HOLDINGS_DRAINED where its condition does not hold, change nothing are the model's choice: no rule gives
such an event (log 4). -/
def Obligations.PresenceTimersMoveTheStation : Prop :=
  (∀ (s : State) t, s.dev.Up →
      let d := s.dev.elapseTo t
      (s.dev.pc.listenEnds = some t →
        exec .listenTimerExpiry s = .next (s.afterEnd t
          { d with pc.listenEnds := none, pc.presence := .joining, biu := d.biu.placeJoin .join,
                   pu := d.pu.push (.state .joining) })) ∧
      (∀ w, s.dev.pc.window = some w → w.ends = t →
        exec .collectTimerExpiry s = .next (s.afterEnd t d.enterMember)) ∧
      (s.dev.pc.beaconEnds = some t →
        exec .beaconTimerExpiry s =
          .next (s.afterEnd t { d with biu := d.biu.placeBeacon, pc.beaconEnds := some (t + us 2000) })) ∧
      (s.dev.pc.listenEnds = none → exec .listenTimerExpiry s = .next s) ∧
      (s.dev.pc.window = none → exec .collectTimerExpiry s = .next s) ∧
      (s.dev.pc.beaconEnds = none → exec .beaconTimerExpiry s = .next s)) ∧
  (∀ (s : State),
      let drained := s.dev.pc.presence = .leaving ∧ (∀ h ∈ s.dev.ht.holdings, h.isOwn = false) ∧
        s.dev.biu.outbox.release = [] ∧ s.dev.biu.outbox.claim = none ∧
        s.dev.biu.outbox.joinLeave.holds .leave = false
      (drained → exec .ownHoldingsDrained s =
        .next { s with dev := Dev.close s.dev { s.dev with biu := s.dev.biu.placeJoin .leave } }) ∧
      (¬ drained → exec .ownHoldingsDrained s = .next s))

/-- What an entry into MEMBER sets: STATE and, once, READY; the window and every mismatch count end, the beacon timer
starts at the station number times 100 µs (station 0 places its BEACON at once), SETUP is locked, and but for the end
of a resync the plea mark leaves NONE, an URGENT station placing PLEA. The open answers end the window once they are
complete. -/
def Obligations.EntryIntoMemberReleasesWhatWaited : Prop :=
  ∀ (d : Dev),
    let told : Pu := Pu.push { d.pu with setupLock := true } (.state .member)
    let beaconed : Biu := if d.pc.station = 0 then d.biu.placeBeacon else d.biu
    let pleads := d.pc.syncCause ≠ some .resync ∧ d.rs.urgency = .urgent
    d.enterMember = Dev.prompt { d with
      pc := { d.pc with
        presence := .member, syncCause := none, window := none, readyGiven := true,
        roster := d.pc.roster.map (fun r => { r with mismatch := 0 }),
        beaconEnds := some (d.now + if d.pc.station = 0 then us 2000 else us (100 * d.pc.station.toNat)) },
      pu := if d.pc.readyGiven then told else told.push (.ready d.pc.station d.units),
      biu := if pleads then beaconed.placePlea .plea else beaconed,
      rs.pleaMark :=
        if d.pc.syncCause = some .resync then d.rs.pleaMark
        else if d.rs.urgency = .urgent then .plea else .clear } ∧
    (d.pc.window = none ∨ d.pc.presence ≠ .syncing → d.checkAnswers = d) ∧
    (∀ w, d.pc.presence = .syncing → d.pc.window = some w →
      let complete := ∀ x, d.pc.isMember x = true → (w.tallyAt x).excluded = false →
        (w.tallyAt x).summarySeen = true ∧ (w.tallyAt x).counted = (w.tallyAt x).announced
      (complete → d.checkAnswers = d.enterMember) ∧ (¬ complete → d.checkAnswers = d))

/-- A MEMBER record not heard for 6,000 µs becomes SILENT, its mismatch count 0, excluded from an open window, its
part of the view dropped, and the answers are tested. No other record does. A peer record is dropped at its expiry,
its owner's calibration entry standing; an own record has none. A surge entry leaves at the age of 1,000 µs, and none
older stands once time has passed. Each takes place at its moment, even where its command comes late (logs 2, 23). That
the command of a silence or an expiry that cannot come changes nothing is the model's choice (log 4). -/
def Obligations.SilenceExpiryAndAgeingDropWhatIsStale : Prop :=
  (∀ (s : State) x t, s.dev.pc.presence.keepsRoster = true →
      (x ≠ s.dev.pc.station → (s.dev.pc.rosterAt x).state = .member → (s.dev.pc.rosterAt x).lastHeard = some t →
        exec (.silence x) s = .next (s.afterEnd (t + us 6000) (Dev.checkAnswers (Dev.dropStation x (Dev.excludeTally x
          (Dev.modRoster x (fun r => { r with state := .silent, mismatch := 0 }) (s.dev.elapseTo (t + us 6000)))))))) ∧
      (x = s.dev.pc.station ∨ (s.dev.pc.rosterAt x).state ≠ .member → exec (.silence x) s = .next s) ∧
      ∀ e : Dev, TallyBecomes x (fun t => { t with excluded := true }) e (e.excludeTally x)) ∧
  ((∀ (s : State) x h r, s.dev.Up → findHolding x h s.dev.ht.holdings = some r →
      (∀ b e, r.holder = .peer b e →
        let d := s.dev.elapseTo e
        exec (.peerExpiry x h) s = .next (s.afterEnd e (Dev.prompt
          { d with ht.holdings := d.ht.holdings.filter (fun y => !(y.station == x && y.handle == h)) }))) ∧
      (∀ p, r.holder = .own p → exec (.peerExpiry x h) s = .next s)) ∧
    (∀ (s : State) t rest, s.dev.Up → s.dev.ht.surge = t :: rest →
      let d := s.dev.elapseTo (t + us 1000)
      exec .surgeEntryAgeing s = .next (s.afterEnd (t + us 1000)
        { d with ht.surge := rest.filter (fun x => d.now ≤ x + us 1000) })) ∧
    (∀ (d : Dev) dt x, x ∈ (d.elapse dt).ht.surge ↔ x ∈ d.ht.surge ∧ d.now + dt ≤ x + us 1000) ∧
    (∀ (t : Time) l, (surgeAdd t l).length ≤ 16 ∧ (l.length < 16 → surgeAdd t l = l ++ [t]) ∧
      (∀ x l', l = x :: l' → l.length = 16 → surgeAdd t l = l' ++ [t])))

/-- The first and second lease expiry place EXTEND with the period's number, restart the lease from its end in the
next period and alert OVERRUN; the third stops it, puts the handle on the forced list, alerts FORCED and places
RELEASE FORCED. The lease restarts from its end even where the command comes late (log 2). -/
def Obligations.LeaseExpiryExtendsThenForces : Prop :=
  (∀ (s : State) h x p t, s.dev.Up → s.dev.ownHolding? h = some x → x.holder = .own p → p.leaseEnds = some t →
    let d := s.dev.elapseTo t
    let who : Byte := if x.cls = .rfb then x.target.region.setWidth 8 else p.tag.getD 0
    (p.period < 3 →
      exec (.leaseTimerExpiry h) s = .next (s.afterEnd t { d with
        biu := d.biu.placeExtend h (nat8 p.period),
        ht.holdings := mapHolding d.pc.station h
          (Holding.mapPart (fun q => { q with leaseEnds := some (t + leaseTime x.cls), period := p.period + 1 }))
          d.ht.holdings,
        pu := d.pu.push (.alert (.overrun h (nat8 p.period) who)) })) ∧
    (3 ≤ p.period →
      exec (.leaseTimerExpiry h) s = .next (s.afterEnd t { d with
        biu := d.biu.placeRelease h .forced,
        ht.holdings := mapHolding d.pc.station h (Holding.mapPart (fun q => { q with leaseEnds := none }))
          d.ht.holdings,
        ht.forced := d.ht.forced ++ [(h, p.tag)],
        pu := d.pu.push (.alert (.forced h who)) }))) ∧
  (∀ x h f l, mapHolding x h f l = l.map (fun y => if y.station = x ∧ y.handle = h then f y else y)) ∧
  (∀ (x : Holding) g, (∀ p, x.holder = .own p → x.mapPart g = { x with holder := .own (g p) }) ∧
    (∀ b e, x.holder = .peer b e → x.mapPart g = x))

/-- A region's accrual raises a debt below +8; at +8 it counts a lapse, to at most 65,535, and alerts it with the
count as it then stands. The timer restarts at the grade's interval from its end, and the urgency evaluation follows.
It counts from there even where the command comes late (log 2). -/
def Obligations.AccrualRaisesDebtOrCountsALapse : Prop :=
  ∀ (s : State) r t, s.dev.Up → (s.dev.rs.regionAt r).timer = .running t →
    let d := s.dev.elapseTo t
    let again : AccrualTimer := .running (t + (match d.rs.grade with | .one => us 8000 | .two => us 4000))
    ((s.dev.rs.regionAt r).debt < 8 →
      exec (.accrualTimerExpiry r) s = .next (s.afterEnd t (Dev.evalUrgency
        (d.modRegion r (fun x => { x with debt := x.debt + 1, timer := again }))))) ∧
    (8 ≤ (s.dev.rs.regionAt r).debt →
      exec (.accrualTimerExpiry r) s = .next (s.afterEnd t (Dev.evalUrgency (Dev.notify
        (.alert (.lapse r (inc16 (s.dev.rs.regionAt r).lapses)))
        (d.modRegion r (fun x => { x with lapses := inc16 x.lapses, timer := again }))))))

/-- The urgency evaluation takes the greatest debt over the ACTIVE regions, or 0, against the levels with hysteresis.
A change places PLEA or CLEAR once the plea mark has left NONE, and on entering URGENT a STAGED local entry is
unstaged; one whose first send is under way is unstaged as that attempt ends, if it ends without a send (log 12). -/
def Obligations.UrgencyFollowsTheGreatestDebt : Prop :=
  ∀ (d : Dev),
    let g := d.rs.greatestDebt
    ((∀ n, (d.rs.regionAt n).exempt = false → (d.rs.regionAt n).debt ≤ g) ∧
      ((∃ n, (d.rs.regionAt n).exempt = false ∧ (d.rs.regionAt n).debt = g) ∨
        ((∀ n, (d.rs.regionAt n).exempt = true) ∧ g = 0))) ∧
    (d.evalUrgency.rs.urgency =
      match d.rs.urgency with
      | .normal => if (d.rs.startLevel : Int) ≤ g then .urgent else .normal
      | .urgent => if g ≤ (d.rs.endLevel : Int) then .normal else .urgent) ∧
    (d.evalUrgency.rs.urgency = d.rs.urgency → d.evalUrgency = d) ∧
    (d.rs.urgency = .urgent → g ≤ (d.rs.endLevel : Int) →
      d.evalUrgency = Dev.prompt { d with
        rs.urgency := .normal, rs.pleaMark := if d.rs.pleaMark = .none then .none else .clear,
        biu := if d.rs.pleaMark = .none then d.biu else d.biu.placePlea .clear }) ∧
    (d.rs.urgency = .normal → (d.rs.startLevel : Int) ≤ g →
      d.evalUrgency = Dev.urgentUnstage (Dev.prompt { d with
        rs.urgency := .urgent, rs.pleaMark := if d.rs.pleaMark = .none then .none else .plea,
        biu := if d.rs.pleaMark = .none then d.biu else d.biu.placePlea .plea })) ∧
    (d.biu.outbox.claim = none → d.urgentUnstage = d) ∧
    (∀ c, d.biu.outbox.claim = some c → c.cls = .rfb → d.urgentUnstage = d) ∧
    (∀ c, d.biu.outbox.claim = some c → c.cls ≠ .rfb → d.biu.inHandIs .claim = true →
      d.urgentUnstage = { d with biu.outbox.claim := some { c with unstageDue := true } }) ∧
    (∀ c t, d.biu.stagedClaim = some c → c.cls ≠ .rfb → c.tag = some t →
      d.urgentUnstage = Dev.prompt { d with
        biu.outbox.claim := none, pu.goReserved := false,
        oqs.queue := d.oqs.queue.map (fun e => if e.tag = t then { e with staged := false } else e) })

/-- The head timer ends: it stops, and REQUEUE is placed unless the INTENT slot holds a WITHDRAW or a REQUEUE, a
successor counted as held (the model's reading, log 28). At the close of each step it starts at 20,000 µs where the
own entry has become head in MEMBER, and stops where that no longer holds. The selection timer's end makes a
selection. After every step the timer runs exactly while the five conditions of a selection hold, and a selection
restarts it at 100 µs. One selection is made in a step, at its close, and its event is noted until then (log 11); an
end may come late (log 2). Beside this the close of a step changes the CLAIM and INTENT slots, the handle counter,
staged-RFB marks, and the state, bypass count and intent flag of entries, and nothing else; with a claim in its slot
or no event noted it stages none, and where it stages none the marks, the counter, the states and the bypass counts
stand. -/
def Obligations.HeadAndSelectionTimersRunTheirCourse : Prop :=
  ((∀ (s : State) t, s.dev.Up → s.dev.ht.headTimer = some t →
      let d := s.dev.elapseTo t
      let giving := s.dev.biu.outbox.intent.holds .withdraw = true ∨ s.dev.biu.outbox.intent.holds .requeue = true
      (giving → exec .headTimerExpiry s = .next (s.afterEnd t { d with ht.headTimer := none })) ∧
      (¬ giving → exec .headTimerExpiry s =
        .next (s.afterEnd t { d with ht.headTimer := none, biu := d.biu.placeIntent .requeue }))) ∧
    (∀ (b d : Dev),
      (d.headAsMember = false → (Dev.close b d).ht.headTimer = none) ∧
      (d.headAsMember = true → b.headAsMember = false → (Dev.close b d).ht.headTimer = some (d.now + us 20000)) ∧
      (d.headAsMember = true → b.headAsMember = true → (Dev.close b d).ht.headTimer = d.ht.headTimer)) ∧
    (∀ d : Dev, d.headAsMember = true ↔
      d.pc.presence = .member ∧ ∃ t rest, d.ht.calQueue = (d.pc.station, t) :: rest)) ∧
  ((∀ (s : State) t, s.dev.Up → s.dev.oqs.selTimer = some t →
      exec .selectionTimerExpiry s = .next (s.afterEnd t { s.dev.elapseTo t with oqs.selectDue := true })) ∧
    (∀ (b d : Dev), ((Dev.close b d).oqs.selTimer ≠ none ↔
      (Dev.close b d).biu.outbox.claim = none ∧ d.pc.presence = .member ∧ d.ht.forced = [] ∧ d.ownHoldings.length < 2 ∧
        d.pu.notices.length ≤ 12 ∧ d.rs.hold = false)) ∧
    (∀ (b d : Dev), Dev.SelectionDue b d → (Dev.close b d).oqs.selTimer ≠ none →
      (Dev.close b d).oqs.selTimer = some (d.now + us 100))) ∧
  ((∀ d : Dev, d.prompt = { d with oqs.selectDue := true }) ∧
    (∀ (b d : Dev),
      let e := Dev.close b d
      let stages := fun (x : Dev) => x.oqs.queue.map (fun y => (y.tag, y.staged, y.bypass))
      d.SameButClose e ∧ e.oqs.selectDue = false ∧
      (d.biu.outbox.claim ≠ none ∨ ¬ Dev.SelectionDue b d → e.biu.outbox.claim = d.biu.outbox.claim) ∧
      (e.biu.outbox.claim = d.biu.outbox.claim →
        e.rs = d.rs ∧ e.ht.handleCtr = d.ht.handleCtr ∧ stages e = stages d)))

/-- A deadline that passes removes a QUEUED entry, or one STAGED with its claim waiting, with EXPIRED; with its claim
SENDING the entry becomes overdue. An entry that leaves the local queue before its grant: the entries behind it close
up; if it bore the intent flag the oldest remaining CAL entry takes it, and WITHDRAW is placed where none remains. The
command may come late (log 2). A reserved place lapses before EXPIRED is judged (the model's order, log 42). -/
def Obligations.DeadlineRemovesOrMarksTheEntry : Prop :=
  (∀ (s : State) tag e t, s.dev.Up → s.dev.oqs.entry? tag = some e → e.overdue = false → e.deadline = some t →
      let d := s.dev.elapseTo t
      (e.staged = false →
        exec (.deadlinePasses tag) s = .next (s.afterEnd t ((d.removeEntry tag).notify (.expired tag)))) ∧
      (e.staged = true → s.dev.biu.claimSending = false →
        exec (.deadlinePasses tag) s = .next (s.afterEnd t ((Dev.removeEntry tag (Dev.prompt
          { d with biu.outbox.claim := none, pu.goReserved := false })).notify (.expired tag)))) ∧
      (e.staged = true → s.dev.biu.claimSending = true →
        exec (.deadlinePasses tag) s = .next (s.afterEnd t { d with
          oqs.queue := d.oqs.queue.map (fun x => if x.tag = tag then { x with overdue := true } else x) }))) ∧
  (∀ (d : Dev) (e : Entry) (before behind : List Entry), d.oqs.queue = before ++ e :: behind →
      (∀ x ∈ before ++ behind, x.tag ≠ e.tag) →
      (e.intent = false → d.removeEntry e.tag = { d with oqs.queue := before ++ behind }) ∧
      (e.intent = true → (∀ x ∈ before ++ behind, x.cls ≠ .cal) →
        d.removeEntry e.tag =
          { d with oqs.queue := before ++ behind, biu := d.biu.placeIntent .withdraw }) ∧
      (∀ x pre post, e.intent = true → before ++ behind = pre ++ x :: post → x.cls = .cal → (∀ y ∈ pre, y.cls ≠ .cal) →
        d.removeEntry e.tag = { d with oqs.queue := pre ++ { x with intent := true } :: post }))

/-- LINK_FAULT is entered from JOINING, SYNCING, MEMBER and LEAVING alone: STATE and ALERT, the window ends, a STAGED
claim is unstaged; if the own holdings have settled with nothing in transmission, recovery follows at once (log 15).
Recovery from LINK_FAULT: the outbox and the replica are emptied, CANCELLED notified for each CANCELLING holding that
ends with it (two in an order that is the model's choice, log 41), every roster record but its counters reset, the
loss and error counts cleared, LISTENING entered with its timer and STATE; the forced list, the other counts, the
station's settings and the regions' debts stand. A reserved place lapses behind STATE and ALERT (the model's order,
log 42). -/
def Obligations.LinkFaultIsEnteredAndRecovered : Prop :=
  (∀ (d : Dev) (c : LinkCause),
      let may := d.pc.presence = .joining ∨ d.pc.presence = .syncing ∨ d.pc.presence = .member ∨ d.pc.presence = .leaving
      let entered : Dev := Dev.anyUnstaged { d with
        pc.presence := .linkFault, pc.syncCause := none, pc.window := none,
        pu := (d.pu.push (.state .linkFault)).push (.alert (.linkFault c)) }
      (¬ may → d.linkFault c = d) ∧
      (may → d.settled = true → d.biu.attempting = false → d.linkFault c = entered.recover) ∧
      (may → (d.settled = false ∨ d.biu.attempting = true) → d.linkFault c = entered) ∧
      (d.settled = true ↔ (∀ h ∈ d.ht.holdings, ∀ p, h.holder = .own p →
        p.state ≠ .running ∧ p.state ≠ .overrun) ∧ d.biu.claimSending = false)) ∧
  (∀ (d : Dev),
      let bare := d.emptyOutbox
      d.recover = { bare with
          ht := bare.ht.clearedView, rs.pleaMark := .none,
          biu := { bare.biu with losses := 0, consecErrors := 0 },
          pc := { d.pc with presence := .listening, listenEnds := some (d.now + us 6000), beaconEnds := none,
                            roster := d.pc.roster.map (fun r =>
                              { r with state := .absent, lastHeard := none, lastApplied := none, mismatch := 0 }) },
          pu := (bare.pu.cancelled d.cancellingTags).push (.state .listening) }) ∧
  (∀ (s : State), s.dev.pc.presence = .linkFault → s.dev.settled = true → s.dev.biu.attempting = false →
      ∃ d, exec .linkFaultRecovery s = .next { s with dev := d } ∧
        d.biu = { s.dev.biu with outbox := Outbox.empty, inHand := none, losses := 0, consecErrors := 0 } ∧
        d.ht = { s.dev.ht with holdings := [], surge := [], pleas := 0, calQueue := [], nextTicket := 0,
                               headTimer := none } ∧
        d.pc = { s.dev.pc with presence := .listening, listenEnds := some (s.dev.now + us 6000), beaconEnds := none,
                               roster := d.pc.roster } ∧
        (∀ x, d.pc.rosterAt x = { s.dev.pc.rosterAt x with
          state := .absent, lastHeard := none, lastApplied := none, mismatch := 0 }) ∧
        d.rs.pleaMark = .none ∧ d.rs.urgency = s.dev.rs.urgency ∧ d.rs.hold = s.dev.rs.hold ∧
        d.rs.grade = s.dev.rs.grade ∧
        (∀ n, (d.rs.regionAt n).debt = (s.dev.rs.regionAt n).debt ∧
          (d.rs.regionAt n).pointer = (s.dev.rs.regionAt n).pointer ∧
          (d.rs.regionAt n).timer = (s.dev.rs.regionAt n).timer ∧
          (d.rs.regionAt n).lapses = (s.dev.rs.regionAt n).lapses) ∧
        d.pu =
          (({ s.dev.pu with goReserved := s.dev.pu.goReserved && s.dev.biu.outbox.claim.isNone } : Pu).cancelled
            s.dev.cancellingTags).push (.state .listening) ∧
        d.pu.setupLock = s.dev.pu.setupLock ∧ d.oqs.selTimer = none ∧
        (∀ e ∈ s.dev.oqs.queue, ∃ e' ∈ d.oqs.queue, e'.tag = e.tag ∧ e'.cls = e.cls ∧ e'.bypass = e.bypass))

/-! ### Requests and other transfers of the controller -/

/-- SUBMIT is refused with the reason of the first condition that fails, in the order FAULTED, HELD, BAD_FIELD,
EXEMPT_REGION, DUPLICATE_TAG, FULL, and then changes nothing of the queue; else the entry joins at the tail, QUEUED,
with its deadline in units of 100 µs (none for 0), and ACCEPT is queued. A selection that follows is made at the close
of the step (log 11). -/
def Obligations.SubmitIsRefusedInOrderOrAccepted : Prop :=
  ∀ (s : State) dt (tag cls region : Byte) (notAfter : Word16), s.dev.TakesTransfers →
    let d := s.dev.asked dt
    let scb := cls = 2
    let named := cls = 2 ∨ cls = 3
    let reason : Option Reason :=
      if d.pc.presence = .configFault then some .faulted
      else if d.rs.hold = true then some .held
      else if (cls ≠ 1 ∧ ¬ named) ∨ (named ∧ 3 < region.toNat) then some .badField
      else if scb ∧ (d.rs.regionAt (region.extractLsb' 0 2)).exempt = true then some .exemptRegion
      else if (∃ e ∈ d.oqs.queue, e.tag = tag) ∨ (∃ h ∈ d.ownHoldings, h.part.bind OwnPart.tag = some tag) then
        some .duplicateTag
      else if 8 ≤ d.oqs.queue.length then some .full
      else none
    (∀ r, reason = some r → exec (.submit dt tag cls region notAfter) s =
      .next (s.afterPort dt (d.notify (.refuse .submit (some tag) r)))) ∧
    (reason = none → exec (.submit dt tag cls region notAfter) s =
      .next (s.afterPort dt (Dev.prompt (Dev.notify (.accept tag)
        { d with oqs.queue := d.oqs.queue ++
          [{ tag := tag, cls := if cls = 1 then .cal else if cls = 2 then .scb else .ini,
             region := if cls = 1 then none else some (region.extractLsb' 0 2),
             deadline := if notAfter = 0 then none else some (d.now + us (100 * notAfter.toNat)),
             overdue := false, bypass := 0, staged := false, intent := false }] }))))

/-- CANCEL removes a QUEUED entry, or one whose claim waits, with CANCELLED; marks a claim that is SENDING, once; and
is refused RUNNING for an own holding whose GO was sent, UNKNOWN otherwise. A selection that follows is made at the
close of the step (log 11). A reserved place lapses before CANCELLED is judged (the model's order, log 42). -/
def Obligations.CancelActsByTheEntrysStage : Prop :=
  ∀ (s : State) dt tag, s.dev.TakesTransfers →
    let d := s.dev.asked dt
    (d.oqs.entry? tag = none →
      (∀ h, d.ownHoldings.find? (fun h => h.part.bind OwnPart.tag == some tag) = some h →
        (h.part.map OwnPart.goSent).getD false = true →
        exec (.cancel dt tag) s = .next (s.afterPort dt (d.notify (.refuse .cancel (some tag) .running)))) ∧
      (∀ h, d.ownHoldings.find? (fun h => h.part.bind OwnPart.tag == some tag) = some h →
        (h.part.map OwnPart.goSent).getD false = false →
        exec (.cancel dt tag) s = .next (s.afterPort dt (d.notify (.refuse .cancel (some tag) .unknown)))) ∧
      ((∀ h ∈ d.ownHoldings, h.part.bind OwnPart.tag ≠ some tag) →
        exec (.cancel dt tag) s = .next (s.afterPort dt (d.notify (.refuse .cancel (some tag) .unknown))))) ∧
    (∀ e, d.oqs.entry? tag = some e → e.staged = false →
      exec (.cancel dt tag) s = .next (s.afterPort dt ((d.removeEntry tag).notify (.cancelled tag)))) ∧
    (∀ e, d.oqs.entry? tag = some e → e.staged = true → d.biu.claimSending = false →
      exec (.cancel dt tag) s = .next (s.afterPort dt ((Dev.removeEntry tag (Dev.prompt
        { d with biu.outbox.claim := none, pu.goReserved := false })).notify (.cancelled tag)))) ∧
    (∀ e c, d.oqs.entry? tag = some e → e.staged = true → d.biu.claimSending = true →
      d.biu.outbox.claim = some c →
      exec (.cancel dt tag) s = .next (s.afterPort dt
        (if c.cancel then d.notify (.refuse .cancel (some tag) .unknown)
        else { d with biu.outbox.claim := some { c with cancel := true } })))

/-- DONE by the first case that fits: BAD_FIELD for an outcome other than OK, FAIL, ABORTED; LATE for a handle on the
forced list, which it leaves; accepted for a holding RUNNING or OVERRUN, whose lease stops and whose RELEASE is
placed; else UNKNOWN. A selection that follows is made at the close of the step (log 11). -/
def Obligations.DoneIsAnsweredByTheFirstCaseThatFits : Prop :=
  ∀ (s : State) dt (h o : Byte), s.dev.TakesTransfers →
    let d := s.dev.asked dt
    (3 ≤ o.toNat →
      exec (.done dt h o) s = .next (s.afterPort dt (d.notify (.refuse .done (some h) .badField)))) ∧
    (∀ outcome f, DoneOutcome.ofCode o = some outcome → d.ht.forced.find? (fun f => f.1 == h) = some f →
      let rest := d.ht.forced.filter (fun f => f.1 != h)
      let late : Dev := Dev.notify (.late h f.2 outcome) { d with ht.forced := rest }
      exec (.done dt h o) s = .next (s.afterPort dt (if rest = [] then late.prompt else late))) ∧
    (∀ outcome x p, DoneOutcome.ofCode o = some outcome → (∀ f ∈ d.ht.forced, f.1 ≠ h) →
      d.ownHolding? h = some x → x.holder = .own p → (p.state = .running ∨ p.state = .overrun) →
      exec (.done dt h o) s = .next (s.afterPort dt { d with
        ht.holdings := mapHolding d.pc.station h
          (Holding.mapPart (fun q => { q with done := some outcome, leaseEnds := none })) d.ht.holdings,
        biu := d.biu.placeRelease h (if o = 0 then .ok else .fail) })) ∧
    (∀ x p, o.toNat < 3 → (∀ f ∈ d.ht.forced, f.1 ≠ h) → d.ownHolding? h = some x → x.holder = .own p →
      p.state ≠ .running → p.state ≠ .overrun →
      exec (.done dt h o) s = .next (s.afterPort dt (d.notify (.refuse .done (some h) .unknown)))) ∧
    (o.toNat < 3 → (∀ f ∈ d.ht.forced, f.1 ≠ h) → d.ownHolding? h = none →
      exec (.done dt h o) s = .next (s.afterPort dt (d.notify (.refuse .done (some h) .unknown)))) ∧
    (DoneOutcome.ofCode 0 = some .ok ∧ DoneOutcome.ofCode 1 = some .fail ∧ DoneOutcome.ofCode 2 = some .aborted) ∧
    (∀ x k f l, mapHolding x k f l = l.map (fun y => if y.station = x ∧ y.handle = k then f y else y)) ∧
    (∀ (x : Holding) g p, x.holder = .own p → x.mapPart g = { x with holder := .own (g p) })

/-- HOLD sets the flag, stops every running accrual timer with its time kept and unstages a STAGED claim; held
already, it is refused HELD. RESUME clears the flag, raises every ACTIVE debt to at least 1, evaluates the urgency
once and restarts every ACTIVE timer with the time it kept; not held, it is refused NOT_HELD. A claim
SENDING is marked, and unstaged as its attempt ends, if that ends before any completed send (log 12). -/
def Obligations.HoldAndResumeStopAndRestartAccrual : Prop :=
  (∀ (s : State) dt, s.dev.TakesTransfers →
      let d := s.dev.asked dt
      (d.rs.hold = true →
        exec (.hold dt) s = .next (s.afterPort dt (d.notify (.refuse .hold none .held)))) ∧
      (d.rs.hold = false → ∃ r : Rs,
        (∀ n, r.regionAt n = { d.rs.regionAt n with
          timer := match (d.rs.regionAt n).timer with
            | .running t => .stopped (t - d.now)
            | .stopped left => .stopped left }) ∧
        r = { d.rs with regions := r.regions, hold := true } ∧
        exec (.hold dt) s = .next (s.afterPort dt (Dev.callBack { d with rs := r }))) ∧
      (∀ e : Dev, e.biu.outbox.claim = none → e.callBack = e) ∧
      (∀ (e : Dev) c, e.biu.stagedClaim = some c → e.callBack = e.unstage c) ∧
      (∀ (e : Dev) c, e.biu.outbox.claim = some c → e.biu.inHandIs .claim = true →
        e.callBack = { e with biu.outbox.claim := some { c with unstageDue := true } })) ∧
  (∀ (s : State) dt, s.dev.TakesTransfers →
      let d := s.dev.asked dt
      (d.rs.hold = false →
        exec (.resume dt) s = .next (s.afterPort dt (d.notify (.refuse .resume none .notHeld)))) ∧
      (d.rs.hold = true → ∃ (r : Rs) (e : Dev),
        (∀ n, r.regionAt n = { d.rs.regionAt n with
          debt := if (d.rs.regionAt n).exempt then (d.rs.regionAt n).debt
                  else max (d.rs.regionAt n).debt 1 }) ∧
        r = { d.rs with regions := r.regions, hold := false } ∧
        (∀ n, e.rs.regionAt n =
          let x := (Dev.evalUrgency { d with rs := r }).rs.regionAt n
          if x.exempt then x
          else { x with timer := match x.timer with
            | .stopped left => .running (d.now + left)
            | .running t => .running t }) ∧
        e = { Dev.evalUrgency { d with rs := r } with
          rs := { (Dev.evalUrgency { d with rs := r }).rs with regions := e.rs.regions } } ∧
        exec (.resume dt) s = .next (s.afterPort dt e.prompt)))

/-- LEAVE is taken in MEMBER alone, where LEAVING is entered with STATE as the answer, a STAGED claim is unstaged and
LEAVE is placed if nothing remains; REJOIN in DETACHED alone, where LISTENING is entered. Each is refused BUSY in
every other state, so a LEAVE that meets a resync or a link fault already taken is refused, and a resync cause in
LEAVING starts none. A selection that follows is made at the close of the step (log 11). A reserved place lapses
behind STATE (the model's order, log 42). -/
def Obligations.LeaveAndRejoinAreTakenInTheirStates : Prop :=
  ∀ (s : State) dt, s.dev.TakesTransfers →
    let d := s.dev.asked dt
    let leaving : Dev := Dev.anyUnstaged { d with pc.presence := .leaving, pu := d.pu.push (.state .leaving) }
    (d.pc.presence = .member →
      exec (.leaveRequest dt) s = .next (s.afterPort dt
        (if leaving.drained then { leaving with biu := leaving.biu.placeJoin .leave } else leaving))) ∧
    (d.pc.presence ≠ .member →
      exec (.leaveRequest dt) s = .next (s.afterPort dt (d.notify (.refuse .leave none .busy)))) ∧
    (d.pc.presence = .detached →
      exec (.rejoin dt) s = .next (s.afterPort dt
        { d with pc.readyGiven := false, pc.presence := .listening, pc.listenEnds := some (d.now + us 6000),
                 pc.beaconEnds := none, pu := d.pu.push (.state .listening) })) ∧
    (d.pc.presence ≠ .detached →
      exec (.rejoin dt) s = .next (s.afterPort dt (d.notify (.refuse .rejoin none .busy)))) ∧
    (∀ (e : Dev) x, e.pc.presence = .leaving → (e.contest x).pc.presence = .leaving) ∧
    (∀ (e : Dev) x g f, e.pc.presence = .leaving → e.beaconApplied x g f = e) ∧
    (∀ (e : Dev) c, e.pc.presence = .member →
      e.startResync.pc.presence = .syncing ∧ (e.linkFault c).pc.presence ≠ .member)

/-- Each of the six QUERYs queues one REPLY with its topic's content for a part in range (COUNTERS clears the port
error flag), and is refused BAD_FIELD for any other part, as a QUERY of any other topic is. The content of each topic
is laid out as R189 lists it: REGIONS, QUEUE, STATION, TABLE part 0, part 1 and the later parts, ROSTER and COUNTERS,
with times in units of 100 µs rounded up and 0 for what is absent. That the staged claim is shown until it is
delivered, and a stopped lease's period as 0, is the model's reading (log 29); that raw PUT bytes are routed so, log
20. -/
def Obligations.QueryIsAnsweredWithAReply : Prop :=
  (∀ (s : State) dt part, s.dev.TakesTransfers →
    let d := s.dev.asked dt
    let reply := fun (topic : Byte) (content : List Byte) (x : Dev) =>
      .next (s.afterPort dt (x.notify (.reply topic part content)))
    let refusal := .next (s.afterPort dt (d.notify (.refuse .query none .badField)))
    (exec (.queryStation dt part) s = if part = 0 then reply 0 d.stationReply d else refusal) ∧
    (exec (.queryRegions dt part) s = if part = 0 then reply 1 d.regionsReply d else refusal) ∧
    (exec (.queryTable dt part) s = if part.toNat < 8 then reply 2 (d.tableReply part.toNat) d else refusal) ∧
    (exec (.queryRoster dt part) s = if part.toNat < 4 then reply 3 (d.rosterReply part.toNat) d else refusal) ∧
    (exec (.queryQueue dt part) s = if part.toNat < 2 then reply 4 (d.queueReply part.toNat) d else refusal) ∧
    (exec (.queryCounters dt part) s =
      if part = 0 then reply 5 d.countersReply { d with pu.portError := false } else refusal) ∧
    (∀ topic extra, 5 < topic.toNat → exec (.putMalformed dt (3 :: 8 :: topic :: part :: extra)) s = refusal)) ∧
  (∀ (d : Dev) (t : Time) (r : Region), d.left (some t) = (t - d.now + 399) / 400 ∧ d.left none = 0 ∧
    d.regionLeft { r with timer := .running t } = (t - d.now + 399) / 400 ∧
    d.regionLeft { r with timer := .stopped t } = (t + 399) / 400) ∧
  (∀ (d : Dev), ∃ flags : Byte,
    d.regionsReply = d.regionBytes 0 ++ d.regionBytes 1 ++ d.regionBytes 2 ++ d.regionBytes 3 ++
      [match d.rs.grade with | .one => 1 | .two => 2, flags, nat8 d.rs.startLevel, nat8 d.rs.endLevel] ∧
    ∀ i, i < 8 → flags.getLsbD i = [d.rs.hold, d.rs.urgency == .urgent, d.pu.setupLock].getD i false) ∧
  (∀ (d : Dev) n, ∃ flags : Byte,
    let r := d.rs.regionAt n
    let own := d.ownHoldings.find? (fun h => h.cls == .rfb && h.target.region == n)
    d.regionBytes n = [flags, BitVec.ofInt 8 r.debt, r.pointer.setWidth 8, hi8 (BitVec.ofNat 16 r.lapses),
      lo8 (BitVec.ofNat 16 r.lapses), nat8 (d.regionLeft r), (own.map Holding.handle).getD 0] ∧
    ∀ i, i < 8 → flags.getLsbD i =
      [r.exempt, match r.timer with | .running _ => true | .stopped _ => false, r.stagedRfb, own.isSome].getD i false) ∧
  (∀ (d : Dev) p, ∃ region : Byte,
    d.queueReply p =
      [nat8 d.oqs.queue.length, region] ++ ((d.oqs.queue.drop (4 * p)).take 4).flatMap d.entryBytes ∧
    (∀ c, d.biu.openClaim = some c → c.cls = .rfb → region = c.target.region.setWidth 8) ∧
    ((∀ c, d.biu.openClaim = some c → c.cls ≠ .rfb) → region = 0xFF)) ∧
  (∀ (d : Dev) (e : Entry), e.bypass ≤ 4 → ∃ state flags : Byte,
    d.entryBytes e = [e.tag, e.cls.code, (e.region.map (BitVec.setWidth 8)).getD 0xFF, state, flags,
      hi8 (BitVec.ofNat 16 (d.left e.deadline)), lo8 (BitVec.ofNat 16 (d.left e.deadline))] ∧
    state = (if e.staged = false then 0 else if d.biu.claimSending then 2 else 1) ∧
    (flags.extractLsb' 4 3).toNat = e.bypass ∧
    flags.getLsbD 7 = false ∧ flags.getLsbD 3 = e.deadline.isSome ∧ flags.getLsbD 1 = e.overdue ∧
    flags.getLsbD 0 = e.intent ∧
    (flags.getLsbD 2 = true ↔ ∃ c, d.biu.openClaim = some c ∧ c.tag = some e.tag ∧ c.cancel = true)) ∧
  (∀ (d : Dev), ∃ flags : Byte,
    let own := (d.ht.calQueue.find? (fun e => e.1 == d.pc.station)).map Prod.snd
    let phase := d.pc.listenEnds <|> d.pc.window.map Window.ends
    let place := fun (f : Option (Byte × Option Byte)) =>
      match f with
      | some f => [f.1, if f.2.isSome then 1 else 0, f.2.getD 0]
      | none => [0, 0, 0]
    d.stationReply =
      [d.pc.station.setWidth 8, d.pc.budget.setWidth 8, nat8 d.units, d.pc.presence.code, flags,
        match d.pc.syncCause with | some .resync => 1 | some .join => 0 | none => 0,
        (d.pc.cfgCause.map CfgCause.code).getD 0, nat8 d.ht.forced.length] ++
      place d.ht.forced[0]? ++ place d.ht.forced[1]? ++
      [d.ht.handleCtr, match d.rs.pleaMark with | .none => 0 | .plea => 1 | .clear => 2, hi8 (own.getD 0),
        lo8 (own.getD 0), nat8 d.ownPosition, nat8 (d.left d.ht.headTimer), nat8 (d.left phase)] ∧
    (∀ i, i < 8 → flags.getLsbD i =
      [d.pc.syncCause.isSome, d.pc.cfgCause.isSome, d.pc.readyGiven, !d.ht.forced.isEmpty,
        inMask d.ht.pleas d.pc.station, own.isSome, d.ht.headTimer.isSome, phase.isSome].getD i false) ∧
    (∀ pre e post, d.ht.calQueue = pre ++ e :: post → e.1 = d.pc.station → (∀ x ∈ pre, x.1 ≠ d.pc.station) →
      d.ownPosition = pre.length + 1) ∧
    ((∀ x ∈ d.ht.calQueue, x.1 ≠ d.pc.station) → d.ownPosition = 0)) ∧
  (∀ (d : Dev),
    d.tableReply 0 = [nat8 d.units] ++ nat16 (heldUnits d.ht.holdings) ++ be16 (BitVec.ofInt 16 d.free) ++
      [nat8 d.ht.surge.length] ++ be16 d.ht.pleas ++ be16 d.ht.nextTicket ++ [nat8 d.ht.calQueue.length] ++
      d.ht.calQueue.flatMap (fun e => [e.1.setWidth 8, hi8 e.2, lo8 e.2]) ∧
    d.tableReply 1 = [nat8 d.ownHoldings.length] ++ d.ownHoldings.flatMap d.ownBytes ++ d.claimBytes ∧
    (∀ p, d.tableReply (p + 2) = [nat8 d.ht.holdings.length] ++
      ((d.ht.holdings.drop (6 * p)).take 6).flatMap (fun h =>
        [h.station.setWidth 8, h.handle, h.cls.code, nat8 h.cls.units, h.target.byte, h.extensions,
          if h.isOwn then 1 else 0] ++ nat16 (d.left h.expiry)))) ∧
  (∀ (d : Dev) (h : Holding) (p : OwnPart), h.holder = .own p → ∃ flags : Byte,
    d.ownBytes h = [h.handle, h.cls.code, nat8 h.cls.units, h.target.byte, flags, p.tag.getD 0,
      match p.state with | .running => 0 | .overrun => 1 | .releasing => 2 | .cancelling => 3 | .forcing => 4,
      if p.leaseEnds.isSome then nat8 p.period else 0, nat8 (d.left p.leaseEnds), h.extensions,
      match p.done with | some .fail => 1 | some .aborted => 2 | some .ok => 0 | none => 0] ∧
    ∀ i, i < 8 → flags.getLsbD i = [p.tag.isSome, p.leaseEnds.isSome, p.goSent, p.done.isSome].getD i false) ∧
  (∀ (d : Dev), (d.biu.openClaim = none → d.claimBytes = [0, 0, 0, 0, 0]) ∧
    (∀ c, d.biu.openClaim = some c → ∃ flags : Byte,
      d.claimBytes = [flags, c.handle, c.cls.code, c.target.byte, c.tag.getD 0] ∧
      ∀ i, i < 8 → flags.getLsbD i = [true, c.tag.isSome, d.biu.claimSending, c.urgent, c.cancel].getD i false)) ∧
  (∀ (d : Dev) (a b c e : Station) p,
    ((p, a, b, c, e) = (0, 0, 1, 2, 3) ∨ (p, a, b, c, e) = (1, 4, 5, 6, 7) ∨ (p, a, b, c, e) = (2, 8, 9, 10, 11) ∨
      (p, a, b, c, e) = (3, 12, 13, 14, 15)) →
    d.rosterReply p = d.rosterBytes a ++ d.rosterBytes b ++ d.rosterBytes c ++ d.rosterBytes e) ∧
  (∀ (d : Dev) (x : Station), ∃ flags : Byte,
    let r := d.pc.rosterAt x
    let own := x == d.pc.station
    let heard := if own then none else r.lastHeard
    let applied := if own then none else r.lastApplied
    d.rosterBytes x = [
      (if own then (if d.pc.presence = .member then 1 else 0)
        else match r.state with | .absent => 0 | .member => 1 | .silent => 2), flags] ++
      nat16 ((heard.map (fun t => min 65535 ((d.now - t + 399) / 400))).getD 0) ++
      [applied.getD 0, nat8 r.mismatch] ++ nat16 r.contests ++ nat16 r.softContests ++ nat16 r.forcedSeen ∧
    ∀ i, i < 8 → flags.getLsbD i = [heard.isSome, applied.isSome].getD i false) ∧
  (∀ d : Dev, d.countersReply = nat16 d.biu.totalErrors ++ [nat8 d.biu.consecErrors, nat8 d.biu.losses] ++
    nat16 d.biu.undelivered ++ nat16 d.biu.rxDiscards ++ [d.biu.seqCtr] ++ nat16 d.ht.contests ++
    nat16 d.pc.resyncs ++ nat16 d.pu.lost ++ nat16 d.pu.malformed)

/-- TAKE on an empty queue shifts 00h and removes nothing; else it shifts out the head notice, which leaves the queue
once its length byte and every byte it declares were clocked out, and the selector is told; taken short, it stays.
PEEK returns the notice count and the presence state with the flags URGENT, hold, quarantine and port error, and
changes nothing. The port error flag is set by a dropped notice and a discarded PUT and cleared by a COUNTERS reply. A
transfer is one command, and what SDO gave is kept as bytes (logs 21, 22). CS_N may stay low on a TAKE through notices
that arrive meanwhile: the notice it has read leaves as CS_N rises behind as many of them as the command says, or else
as the next transfer begins, then as an event of its own (the model's choice of the moment, log 39). -/
def Obligations.TakeAndPeekReadTheNotices : Prop :=
  (∀ (s : State) dt clocked through, s.dev.TakesTransfers →
    let d := (s.dev.elapse dt).endTake
    (d.pu.notices = [] →
      exec (.take dt ⟨clocked, through⟩) s = .next (s.afterPort dt { d with pu.sdo := .shifted [] })) ∧
    (∀ n rest, d.pu.notices = n :: rest →
      (clocked < n.bytes.length →
        exec (.take dt ⟨clocked, through⟩) s =
          .next (s.afterPort dt { d with pu.sdo := .shifted (n.bytes.take clocked) })) ∧
      (n.bytes.length ≤ clocked → through = 0 →
        exec (.take dt ⟨clocked, through⟩) s = .next (s.afterPort dt
          (Dev.prompt { d with pu.sdo := .shifted n.bytes, pu.notices := rest, pu.takeLeft := 0 }))) ∧
      (n.bytes.length ≤ clocked → through ≠ 0 →
        exec (.take dt ⟨clocked, through⟩) s =
          .next (s.afterPort dt { d with pu.sdo := .shifted n.bytes, pu.takeLeft := through }))) ∧
    exec (.peek dt clocked) s = .next { s with dev := { d with pu.sdo := .shifted (d.summary.take clocked) } }) ∧
  (∀ d : Dev, (d.pu.takeLeft = 0 → d.endTake = d) ∧
    (d.pu.takeLeft ≠ 0 →
      d.endTake = Dev.close d (Dev.prompt { d with pu.notices := d.pu.notices.tail, pu.takeLeft := 0 }))) ∧
  (∀ d : Dev, ∃ b : Byte, d.summary = [BitVec.ofNat 8 d.pu.notices.length, b] ∧
    b.extractLsb' 4 4 = d.pc.presence.code.extractLsb' 0 4 ∧ b.getLsbD 3 = (d.rs.urgency == .urgent) ∧
    b.getLsbD 2 = d.rs.hold ∧ b.getLsbD 1 = !d.ht.forced.isEmpty ∧ b.getLsbD 0 = d.pu.portError) ∧
  (∀ (p : Pu) n, ¬ p.notices.length < (if p.goReserved then 15 else 16) → (p.push n).portError = true) ∧
  (∀ (s : State) dt bytes, s.dev.TakesTransfers → Request.ofPut bytes = none →
    ∃ d, exec (.putMalformed dt bytes) s = .next { s with dev := d } ∧ d.pu.portError = true) ∧
  (∀ (s : State) dt, s.dev.TakesTransfers → s.dev.pu.notices.length < 15 →
    ∃ d, exec (.queryCounters dt 0) s = .next { s with dev := d } ∧ d.pu.portError = false)

/-- A notice joins the tail below 16, or below 15 while a GO place is reserved; one that cannot join is dropped and
counted, and the port error flag set. Each is judged alone: where a TAKE under way ends between two of them, the place
it frees is open to the second, though the first was dropped (how its end is counted is the model's, log 39). GO takes
its reserved place. Each of the eleven kinds is a length byte, a type byte and its fields as R188 lists them, the six
ALERT causes with three detail bytes each. -/
def Obligations.NoticesJoinAndAreLaidOutAsListed : Prop :=
  ((∀ (p : Pu) n,
      (p.notices.length < (if p.goReserved then 15 else 16) →
        p.push n = Pu.countTake { p with notices := p.notices ++ [n] }) ∧
      (¬ p.notices.length < (if p.goReserved then 15 else 16) →
        p.push n = Pu.countTake { p with lost := inc16 p.lost, portError := true })) ∧
    (∀ (p : Pu),
      (p.takeLeft = 0 → p.countTake = p) ∧
      (p.takeLeft = 1 → p.countTake = { p with notices := p.notices.tail, takeLeft := 0 }) ∧
      (∀ k, p.takeLeft = k + 2 → p.countTake = { p with takeLeft := k + 1 })) ∧
    (∀ (p : Pu) a b, p.takeLeft = 1 → p.notices.length = (if p.goReserved then 15 else 16) →
      (p.push a).push b =
        { p with notices := p.notices.tail ++ [b], takeLeft := 0, lost := inc16 p.lost, portError := true }) ∧
    (∀ (d : Dev) n, d.PortSound → d.pu.goReserved = true →
      d.notifyGo n =
        { d with pu := Pu.countTake { d.pu with notices := d.pu.notices ++ [n], goReserved := false } })) ∧
  ((Notice.reset .powerOn).bytes = [2, 0x41, 0] ∧ (Notice.reset .line).bytes = [2, 0x41, 1]) ∧
  (∀ (own : Station) (b : Nat), (Notice.ready own b).bytes = [3, 0x42, own.setWidth 8, BitVec.ofNat 8 b]) ∧
  ([Presence.offline, .listening, .joining, .syncing, .member, .leaving, .detached, .linkFault, .configFault].map
    (fun p => (Notice.state p).bytes) =
      [[2, 0x43, 0], [2, 0x43, 1], [2, 0x43, 2], [2, 0x43, 3], [2, 0x43, 4], [2, 0x43, 5], [2, 0x43, 6], [2, 0x43, 7],
        [2, 0x43, 8]]) ∧
  (∀ t, (Notice.accept t).bytes = [2, 0x44, t] ∧ (Notice.expired t).bytes = [2, 0x47, t] ∧
    (Notice.cancelled t).bytes = [2, 0x48, t]) ∧
  (∀ q key r, (Notice.refuse q key r).bytes = [4, 0x45, q.code, key.getD 0, r.code]) ∧
  ([ReqType.setup, .submit, .cancel, .done, .rate, .hold, .resume, .query, .leave, .rejoin].map ReqType.code =
    [1, 2, 3, 4, 5, 6, 7, 8, 9, 10]) ∧
  ([Reason.full, .duplicateTag, .badField, .exemptRegion, .held, .notHeld, .locked, .faulted, .unknown, .running,
      .busy].map Reason.code = [1, 2, 3, 4, 5, 6, 7, 8, 9, 10, 11]) ∧
  (∀ h (c : Cls) tag (tgt : Target) lease, ∃ what : Byte,
    (Notice.go h c tag tgt lease).bytes =
      [6, 0x46, h, c.code, what, hi8 (BitVec.ofNat 16 lease), lo8 (BitVec.ofNat 16 lease)] ∧
    (c = .rfb → what.toNat = 16 * tgt.region.toNat + tgt.group.toNat) ∧ (c ≠ .rfb → what = tag.getD 0)) ∧
  (∀ h tag (o : DoneOutcome), (Notice.late h tag o).bytes =
    [5, 0x49, h, if tag.isSome then 1 else 0, tag.getD 0, match o with | .ok => 0 | .fail => 1 | .aborted => 2]) ∧
  (∀ (r : RegionNo) n, (Notice.alert (.lapse r n)).bytes =
    [5, 0x4A, 0, r.setWidth 8, hi8 (BitVec.ofNat 16 n), lo8 (BitVec.ofNat 16 n)]) ∧
  (∀ h n x, (Notice.alert (.overrun h n x)).bytes = [5, 0x4A, 1, h, n, x] ∧
    (Notice.alert (.forced h x)).bytes = [5, 0x4A, 2, h, x, 0]) ∧
  (∀ x : Station, (Notice.alert (.contest x)).bytes = [5, 0x4A, 3, x.setWidth 8, 0, 0]) ∧
  ([CfgCause.duplicateStation, .versionMismatch, .budgetMismatch].map (fun c => (Notice.alert (.configFault c)).bytes) =
    [[5, 0x4A, 4, 0, 0, 0], [5, 0x4A, 4, 1, 0, 0], [5, 0x4A, 4, 2, 0, 0]]) ∧
  ([LinkCause.undelivered, .busErrors].map (fun c => (Notice.alert (.linkFault c)).bytes) =
    [[5, 0x4A, 5, 0, 0, 0], [5, 0x4A, 5, 1, 0, 0]]) ∧
  (∀ topic part content, (Notice.reply topic part content).bytes =
    BitVec.ofNat 8 (content.length + 3) :: 0x4B :: topic :: part :: content)

/-- The bytes of a well-formed PUT reach the request they spell, with anything beyond the declared length ignored. A
PUT that fails a form check is discarded and counted and sets the port error flag; a transfer of another code is
counted without the flag, one without a whole code is ignored. A transfer whose CS_N was low as reset was released is
ignored, whichever it is: its end is all that it brings, and SDO stayed high-impedance. A transfer is one command that
carries its raw bytes, and well-formed ones are routed from here (logs 20, 21, 22). -/
def Obligations.TransfersAreReadCountedOrIgnored : Prop :=
  (∀ (s : State) dt (a b c x y : Byte) (extra : List Byte),
      exec (.putMalformed dt (4 :: 1 :: a :: b :: c :: extra)) s = exec (.setup dt a b c) s ∧
      exec (.putMalformed dt (6 :: 2 :: a :: b :: c :: x :: y :: extra)) s = exec (.submit dt a b c (x ++ y)) s ∧
      exec (.putMalformed dt (2 :: 3 :: a :: extra)) s = exec (.cancel dt a) s ∧
      exec (.putMalformed dt (3 :: 4 :: a :: b :: extra)) s = exec (.done dt a b) s ∧
      exec (.putMalformed dt (2 :: 5 :: a :: extra)) s = exec (.rate dt a) s ∧
      exec (.putMalformed dt (1 :: 6 :: extra)) s = exec (.hold dt) s ∧
      exec (.putMalformed dt (1 :: 7 :: extra)) s = exec (.resume dt) s ∧
      exec (.putMalformed dt (3 :: 8 :: 0 :: a :: extra)) s = exec (.queryStation dt a) s ∧
      exec (.putMalformed dt (3 :: 8 :: 1 :: a :: extra)) s = exec (.queryRegions dt a) s ∧
      exec (.putMalformed dt (3 :: 8 :: 2 :: a :: extra)) s = exec (.queryTable dt a) s ∧
      exec (.putMalformed dt (3 :: 8 :: 3 :: a :: extra)) s = exec (.queryRoster dt a) s ∧
      exec (.putMalformed dt (3 :: 8 :: 4 :: a :: extra)) s = exec (.queryQueue dt a) s ∧
      exec (.putMalformed dt (3 :: 8 :: 5 :: a :: extra)) s = exec (.queryCounters dt a) s ∧
      exec (.putMalformed dt (1 :: 9 :: extra)) s = exec (.leaveRequest dt) s ∧
      exec (.putMalformed dt (1 :: 10 :: extra)) s = exec (.rejoin dt) s) ∧
  ((∀ (s : State) dt bytes, s.dev.TakesTransfers → Request.ofPut bytes = none →
      exec (.putMalformed dt bytes) s = .next (s.afterPort dt
        { s.dev.asked dt with pu.malformed := inc16 s.dev.pu.malformed, pu.portError := true })) ∧
    (∀ (s : State) dt (c : Byte), s.dev.TakesTransfers → c ≠ 0xE1 → c ≠ 0xE2 → c ≠ 0xE3 →
      exec (.transferCodeInvalid dt (some c)) s = .next (s.afterPort dt
        { s.dev.asked dt with pu.malformed := inc16 s.dev.pu.malformed })) ∧
    (∀ (s : State) dt, s.dev.TakesTransfers →
      exec (.transferCodeInvalid dt none) s = .next (s.afterPort dt (s.dev.asked dt))) ∧
    (∀ (s : State) c dt, s.dev.Up → s.dev.pu.csLow = true → isTransfer c = true → timeOf c = some dt →
      exec c s = .next { s with dev := { s.dev.elapse dt with pu.csLow := false, pu.sdo := .highZ } }) ∧
    (∀ bytes, Request.ofPut bytes = none ↔ ¬ ∃ (len type : Byte) (rest : List Byte), bytes = len :: type :: rest ∧
      len.toNat ≤ rest.length + 1 ∧
      ((type.toNat = 1 ∧ len.toNat = 4) ∨ (type.toNat = 2 ∧ len.toNat = 6) ∨ (type.toNat = 3 ∧ len.toNat = 2) ∨
        (type.toNat = 4 ∧ len.toNat = 3) ∨ (type.toNat = 5 ∧ len.toNat = 2) ∨ (type.toNat = 6 ∧ len.toNat = 1) ∨
        (type.toNat = 7 ∧ len.toNat = 1) ∨ (type.toNat = 8 ∧ len.toNat = 3) ∨ (type.toNat = 9 ∧ len.toNat = 1) ∨
        (type.toNat = 10 ∧ len.toNat = 1))))

/-- The digest is the CRC of the canonical listing: four bytes for each record, the plea mask high byte first, the
stations of the calibration queue; with the worked example, whose bytes are twelve where its words say ten (the model's
reading, log 38), and targets, extensions, expiries, tickets and starts left out. -/
def Obligations.DigestIsTheCrcOfTheListing : Prop :=
  (∀ t : Ht, t.digest = crc16 (t.holdings.flatMap (fun h =>
      [h.station.setWidth 8, h.handle, h.cls.code, BitVec.ofNat 8 h.cls.units]) ++
    [t.pleas.extractLsb' 8 8, t.pleas.extractLsb' 0 8] ++ t.calQueue.map (fun e => e.1.setWidth 8))) ∧
  (∀ (bs : List Byte) (b : Byte), crc16 [] = 0xFFFF ∧
    crc16 (bs ++ [b]) = (List.range 8).foldl
      (fun (r : Word16) i =>
        if r.getLsbD 15 != b.getLsbD (7 - i) then (r <<< 1) ^^^ 0x1021 else r <<< 1) (crc16 bs)) ∧
  (∀ t : Ht,
    t.holdings.map (fun h => (h.station, h.handle, h.cls)) = [(5#4, 9#8, Cls.rfb), (12#4, 1#8, Cls.cal)] →
    (∀ x, inMask t.pleas x = true ↔ x = 12#4) → t.calQueue.map Prod.fst = [12#4, 2#4] →
    t.listing = [0x05, 0x09, 0x00, 0x03, 0x0C, 0x01, 0x01, 0x02, 0x10, 0x00, 0x0C, 0x02]) ∧
  (∀ a b : Ht, a.holdings.map (fun h => (h.station, h.handle, h.cls)) =
      b.holdings.map (fun h => (h.station, h.handle, h.cls)) → a.pleas = b.pleas →
    a.calQueue.map Prod.fst = b.calQueue.map Prod.fst → a.digest = b.digest)

end
end

