-- ==== Sys2Proof/Laws/State.lean ====
section
/-! SUPPORT. What each update of the part leaves in each block: one lemma per block and update, each by definition. -/

namespace Sys2Proof.Laws

open Sys2Proof.Machine

variable (d : Dev)

/-! ### elapseTo -/

@[simp] theorem elapseTo_now (t : Time) : (Dev.elapseTo t d).now = max d.now t := rfl
@[simp] theorem elapseTo_resetKind (t : Time) : (Dev.elapseTo t d).resetKind = d.resetKind := rfl
@[simp] theorem elapseTo_biu (t : Time) : (Dev.elapseTo t d).biu = d.biu := rfl
@[simp] theorem elapseTo_ht (t : Time) : (Dev.elapseTo t d).ht = { d.ht with surge := ageSurge (max d.now t) d.ht.surge } := rfl
@[simp] theorem elapseTo_pc (t : Time) : (Dev.elapseTo t d).pc = d.pc := rfl
@[simp] theorem elapseTo_rs (t : Time) : (Dev.elapseTo t d).rs = d.rs := rfl
@[simp] theorem elapseTo_oqs (t : Time) : (Dev.elapseTo t d).oqs = d.oqs := rfl
@[simp] theorem elapseTo_pu (t : Time) : (Dev.elapseTo t d).pu = d.pu := rfl

/-! ### elapse -/

@[simp] theorem elapse_now (dt : Time) : (Dev.elapse dt d).now = max d.now (d.now + dt) := rfl
@[simp] theorem elapse_resetKind (dt : Time) : (Dev.elapse dt d).resetKind = d.resetKind := rfl
@[simp] theorem elapse_biu (dt : Time) : (Dev.elapse dt d).biu = d.biu := rfl
@[simp] theorem elapse_ht (dt : Time) : (Dev.elapse dt d).ht = { d.ht with surge := ageSurge (max d.now (d.now + dt)) d.ht.surge } := rfl
@[simp] theorem elapse_pc (dt : Time) : (Dev.elapse dt d).pc = d.pc := rfl
@[simp] theorem elapse_rs (dt : Time) : (Dev.elapse dt d).rs = d.rs := rfl
@[simp] theorem elapse_oqs (dt : Time) : (Dev.elapse dt d).oqs = d.oqs := rfl
@[simp] theorem elapse_pu (dt : Time) : (Dev.elapse dt d).pu = d.pu := rfl

/-! ### notify -/

@[simp] theorem notify_now (n : Notice) : (Dev.notify n d).now = d.now := rfl
@[simp] theorem notify_resetKind (n : Notice) : (Dev.notify n d).resetKind = d.resetKind := rfl
@[simp] theorem notify_biu (n : Notice) : (Dev.notify n d).biu = d.biu := rfl
@[simp] theorem notify_ht (n : Notice) : (Dev.notify n d).ht = d.ht := rfl
@[simp] theorem notify_pc (n : Notice) : (Dev.notify n d).pc = d.pc := rfl
@[simp] theorem notify_rs (n : Notice) : (Dev.notify n d).rs = d.rs := rfl
@[simp] theorem notify_oqs (n : Notice) : (Dev.notify n d).oqs = d.oqs := rfl
@[simp] theorem notify_pu (n : Notice) : (Dev.notify n d).pu = d.pu.push n := rfl

/-! ### notifyGo -/

@[simp] theorem notifyGo_now (n : Notice) : (Dev.notifyGo n d).now = d.now := rfl
@[simp] theorem notifyGo_resetKind (n : Notice) : (Dev.notifyGo n d).resetKind = d.resetKind := rfl
@[simp] theorem notifyGo_biu (n : Notice) : (Dev.notifyGo n d).biu = d.biu := rfl
@[simp] theorem notifyGo_ht (n : Notice) : (Dev.notifyGo n d).ht = d.ht := rfl
@[simp] theorem notifyGo_pc (n : Notice) : (Dev.notifyGo n d).pc = d.pc := rfl
@[simp] theorem notifyGo_rs (n : Notice) : (Dev.notifyGo n d).rs = d.rs := rfl
@[simp] theorem notifyGo_oqs (n : Notice) : (Dev.notifyGo n d).oqs = d.oqs := rfl
@[simp] theorem notifyGo_pu (n : Notice) : (Dev.notifyGo n d).pu = Pu.push { d.pu with goReserved := false } n := rfl

/-! ### refuse -/

@[simp] theorem refuse_now (q : ReqType) (k : Option Byte) (r : Reason) : (Dev.refuse q k r d).now = d.now := rfl
@[simp] theorem refuse_resetKind (q : ReqType) (k : Option Byte) (r : Reason) : (Dev.refuse q k r d).resetKind = d.resetKind := rfl
@[simp] theorem refuse_biu (q : ReqType) (k : Option Byte) (r : Reason) : (Dev.refuse q k r d).biu = d.biu := rfl
@[simp] theorem refuse_ht (q : ReqType) (k : Option Byte) (r : Reason) : (Dev.refuse q k r d).ht = d.ht := rfl
@[simp] theorem refuse_pc (q : ReqType) (k : Option Byte) (r : Reason) : (Dev.refuse q k r d).pc = d.pc := rfl
@[simp] theorem refuse_rs (q : ReqType) (k : Option Byte) (r : Reason) : (Dev.refuse q k r d).rs = d.rs := rfl
@[simp] theorem refuse_oqs (q : ReqType) (k : Option Byte) (r : Reason) : (Dev.refuse q k r d).oqs = d.oqs := rfl
@[simp] theorem refuse_pu (q : ReqType) (k : Option Byte) (r : Reason) : (Dev.refuse q k r d).pu = d.pu.push (.refuse q k r) := rfl

/-! ### prompt -/

@[simp] theorem prompt_now : (Dev.prompt d).now = d.now := rfl
@[simp] theorem prompt_resetKind : (Dev.prompt d).resetKind = d.resetKind := rfl
@[simp] theorem prompt_biu : (Dev.prompt d).biu = d.biu := rfl
@[simp] theorem prompt_ht : (Dev.prompt d).ht = d.ht := rfl
@[simp] theorem prompt_pc : (Dev.prompt d).pc = d.pc := rfl
@[simp] theorem prompt_rs : (Dev.prompt d).rs = d.rs := rfl
@[simp] theorem prompt_oqs : (Dev.prompt d).oqs = { d.oqs with selectDue := true } := rfl
@[simp] theorem prompt_pu : (Dev.prompt d).pu = d.pu := rfl

/-! ### modRoster -/

@[simp] theorem modRoster_now (s : Station) (f : RosterRec → RosterRec) : (Dev.modRoster s f d).now = d.now := rfl
@[simp] theorem modRoster_resetKind (s : Station) (f : RosterRec → RosterRec) : (Dev.modRoster s f d).resetKind = d.resetKind := rfl
@[simp] theorem modRoster_biu (s : Station) (f : RosterRec → RosterRec) : (Dev.modRoster s f d).biu = d.biu := rfl
@[simp] theorem modRoster_ht (s : Station) (f : RosterRec → RosterRec) : (Dev.modRoster s f d).ht = d.ht := rfl
@[simp] theorem modRoster_pc (s : Station) (f : RosterRec → RosterRec) : (Dev.modRoster s f d).pc = d.pc.modRoster s f := rfl
@[simp] theorem modRoster_rs (s : Station) (f : RosterRec → RosterRec) : (Dev.modRoster s f d).rs = d.rs := rfl
@[simp] theorem modRoster_oqs (s : Station) (f : RosterRec → RosterRec) : (Dev.modRoster s f d).oqs = d.oqs := rfl
@[simp] theorem modRoster_pu (s : Station) (f : RosterRec → RosterRec) : (Dev.modRoster s f d).pu = d.pu := rfl

/-! ### clearMismatches -/

@[simp] theorem clearMismatches_now : (Dev.clearMismatches d).now = d.now := rfl
@[simp] theorem clearMismatches_resetKind : (Dev.clearMismatches d).resetKind = d.resetKind := rfl
@[simp] theorem clearMismatches_biu : (Dev.clearMismatches d).biu = d.biu := rfl
@[simp] theorem clearMismatches_ht : (Dev.clearMismatches d).ht = d.ht := rfl
@[simp] theorem clearMismatches_pc : (Dev.clearMismatches d).pc = { d.pc with roster := d.pc.roster.map (fun r => { r with mismatch := 0 }) } := rfl
@[simp] theorem clearMismatches_rs : (Dev.clearMismatches d).rs = d.rs := rfl
@[simp] theorem clearMismatches_oqs : (Dev.clearMismatches d).oqs = d.oqs := rfl
@[simp] theorem clearMismatches_pu : (Dev.clearMismatches d).pu = d.pu := rfl

/-! ### modOwn -/

@[simp] theorem modOwn_now (h : Byte) (f : OwnPart → OwnPart) : (Dev.modOwn h f d).now = d.now := rfl
@[simp] theorem modOwn_resetKind (h : Byte) (f : OwnPart → OwnPart) : (Dev.modOwn h f d).resetKind = d.resetKind := rfl
@[simp] theorem modOwn_biu (h : Byte) (f : OwnPart → OwnPart) : (Dev.modOwn h f d).biu = d.biu := rfl
@[simp] theorem modOwn_ht (h : Byte) (f : OwnPart → OwnPart) : (Dev.modOwn h f d).ht = { d.ht with holdings := mapHolding d.pc.station h (Holding.mapPart f) d.ht.holdings } := rfl
@[simp] theorem modOwn_pc (h : Byte) (f : OwnPart → OwnPart) : (Dev.modOwn h f d).pc = d.pc := rfl
@[simp] theorem modOwn_rs (h : Byte) (f : OwnPart → OwnPart) : (Dev.modOwn h f d).rs = d.rs := rfl
@[simp] theorem modOwn_oqs (h : Byte) (f : OwnPart → OwnPart) : (Dev.modOwn h f d).oqs = d.oqs := rfl
@[simp] theorem modOwn_pu (h : Byte) (f : OwnPart → OwnPart) : (Dev.modOwn h f d).pu = d.pu := rfl

/-! ### modRegion -/

@[simp] theorem modRegion_now (n : RegionNo) (f : Region → Region) : (Dev.modRegion n f d).now = d.now := rfl
@[simp] theorem modRegion_resetKind (n : RegionNo) (f : Region → Region) : (Dev.modRegion n f d).resetKind = d.resetKind := rfl
@[simp] theorem modRegion_biu (n : RegionNo) (f : Region → Region) : (Dev.modRegion n f d).biu = d.biu := rfl
@[simp] theorem modRegion_ht (n : RegionNo) (f : Region → Region) : (Dev.modRegion n f d).ht = d.ht := rfl
@[simp] theorem modRegion_pc (n : RegionNo) (f : Region → Region) : (Dev.modRegion n f d).pc = d.pc := rfl
@[simp] theorem modRegion_rs (n : RegionNo) (f : Region → Region) : (Dev.modRegion n f d).rs = d.rs.modRegion n f := rfl
@[simp] theorem modRegion_oqs (n : RegionNo) (f : Region → Region) : (Dev.modRegion n f d).oqs = d.oqs := rfl
@[simp] theorem modRegion_pu (n : RegionNo) (f : Region → Region) : (Dev.modRegion n f d).pu = d.pu := rfl

/-! ### modEntry -/

@[simp] theorem modEntry_now (t : Byte) (f : Entry → Entry) : (Dev.modEntry t f d).now = d.now := rfl
@[simp] theorem modEntry_resetKind (t : Byte) (f : Entry → Entry) : (Dev.modEntry t f d).resetKind = d.resetKind := rfl
@[simp] theorem modEntry_biu (t : Byte) (f : Entry → Entry) : (Dev.modEntry t f d).biu = d.biu := rfl
@[simp] theorem modEntry_ht (t : Byte) (f : Entry → Entry) : (Dev.modEntry t f d).ht = d.ht := rfl
@[simp] theorem modEntry_pc (t : Byte) (f : Entry → Entry) : (Dev.modEntry t f d).pc = d.pc := rfl
@[simp] theorem modEntry_rs (t : Byte) (f : Entry → Entry) : (Dev.modEntry t f d).rs = d.rs := rfl
@[simp] theorem modEntry_oqs (t : Byte) (f : Entry → Entry) : (Dev.modEntry t f d).oqs = { d.oqs with queue := d.oqs.queue.map (fun e => if e.tag == t then f e else e) } := rfl
@[simp] theorem modEntry_pu (t : Byte) (f : Entry → Entry) : (Dev.modEntry t f d).pu = d.pu := rfl

/-! ### enter -/

@[simp] theorem enter_now (p : Presence) : (Dev.enter p d).now = d.now := rfl
@[simp] theorem enter_resetKind (p : Presence) : (Dev.enter p d).resetKind = d.resetKind := rfl
@[simp] theorem enter_biu (p : Presence) : (Dev.enter p d).biu = d.biu := rfl
@[simp] theorem enter_ht (p : Presence) : (Dev.enter p d).ht = d.ht := rfl
@[simp] theorem enter_pc (p : Presence) : (Dev.enter p d).pc = { d.pc with presence := p } := rfl
@[simp] theorem enter_rs (p : Presence) : (Dev.enter p d).rs = d.rs := rfl
@[simp] theorem enter_oqs (p : Presence) : (Dev.enter p d).oqs = d.oqs := rfl
@[simp] theorem enter_pu (p : Presence) : (Dev.enter p d).pu = d.pu.push (.state p) := rfl

/-! ### quietSdo -/

@[simp] theorem quietSdo_now : (Dev.quietSdo d).now = d.now := rfl
@[simp] theorem quietSdo_resetKind : (Dev.quietSdo d).resetKind = d.resetKind := rfl
@[simp] theorem quietSdo_biu : (Dev.quietSdo d).biu = d.biu := rfl
@[simp] theorem quietSdo_ht : (Dev.quietSdo d).ht = d.ht := rfl
@[simp] theorem quietSdo_pc : (Dev.quietSdo d).pc = d.pc := rfl
@[simp] theorem quietSdo_rs : (Dev.quietSdo d).rs = d.rs := rfl
@[simp] theorem quietSdo_oqs : (Dev.quietSdo d).oqs = d.oqs := rfl
@[simp] theorem quietSdo_pu : (Dev.quietSdo d).pu = { d.pu with sdo := .shifted [] } := rfl

/-! ### driveFrame -/

@[simp] theorem driveFrame_now (f : InHand) : (Dev.driveFrame f d).now = d.now := rfl
@[simp] theorem driveFrame_resetKind (f : InHand) : (Dev.driveFrame f d).resetKind = d.resetKind := rfl
@[simp] theorem driveFrame_biu (f : InHand) : (Dev.driveFrame f d).biu =
    { d.biu with inHand := some f, busFree := false,
                 line := .sending (drivenBytes f.patience f.fresh d.pc.station f.seq f.body) } := rfl
@[simp] theorem driveFrame_ht (f : InHand) : (Dev.driveFrame f d).ht = d.ht := rfl
@[simp] theorem driveFrame_pc (f : InHand) : (Dev.driveFrame f d).pc = d.pc := rfl
@[simp] theorem driveFrame_rs (f : InHand) : (Dev.driveFrame f d).rs = d.rs := rfl
@[simp] theorem driveFrame_oqs (f : InHand) : (Dev.driveFrame f d).oqs = d.oqs := rfl
@[simp] theorem driveFrame_pu (f : InHand) : (Dev.driveFrame f d).pu = d.pu := rfl

/-! ### driveSlot -/

@[simp] theorem driveSlot_now : (Dev.driveSlot d).now = d.now := rfl
@[simp] theorem driveSlot_resetKind : (Dev.driveSlot d).resetKind = d.resetKind := rfl
@[simp] theorem driveSlot_biu : (Dev.driveSlot d).biu =
    { d.biu with line := .ack (slotBytes (maskBit d.pc.station)) } := rfl
@[simp] theorem driveSlot_ht : (Dev.driveSlot d).ht = d.ht := rfl
@[simp] theorem driveSlot_pc : (Dev.driveSlot d).pc = d.pc := rfl
@[simp] theorem driveSlot_rs : (Dev.driveSlot d).rs = d.rs := rfl
@[simp] theorem driveSlot_oqs : (Dev.driveSlot d).oqs = d.oqs := rfl
@[simp] theorem driveSlot_pu : (Dev.driveSlot d).pu = d.pu := rfl

/-! ### clearClaimSlot -/

@[simp] theorem clearClaimSlot_now : (Dev.clearClaimSlot d).now = d.now := rfl
@[simp] theorem clearClaimSlot_resetKind : (Dev.clearClaimSlot d).resetKind = d.resetKind := rfl
@[simp] theorem clearClaimSlot_biu : (Dev.clearClaimSlot d).biu = { d.biu with outbox := { d.biu.outbox with claim := none } } := rfl
@[simp] theorem clearClaimSlot_ht : (Dev.clearClaimSlot d).ht = d.ht := rfl
@[simp] theorem clearClaimSlot_pc : (Dev.clearClaimSlot d).pc = d.pc := rfl
@[simp] theorem clearClaimSlot_rs : (Dev.clearClaimSlot d).rs = d.rs := rfl
@[simp] theorem clearClaimSlot_oqs : (Dev.clearClaimSlot d).oqs = { d.oqs with selectDue := true } := rfl
@[simp] theorem clearClaimSlot_pu : (Dev.clearClaimSlot d).pu = { d.pu with goReserved := false } := rfl

/-! ### placeRelease -/

@[simp] theorem placeRelease_now (h : Byte) (o : RelOutcome) : (Dev.placeRelease h o d).now = d.now := rfl
@[simp] theorem placeRelease_resetKind (h : Byte) (o : RelOutcome) : (Dev.placeRelease h o d).resetKind = d.resetKind := rfl
@[simp] theorem placeRelease_biu (h : Byte) (o : RelOutcome) : (Dev.placeRelease h o d).biu = d.biu.placeRelease h o := rfl
@[simp] theorem placeRelease_ht (h : Byte) (o : RelOutcome) : (Dev.placeRelease h o d).ht = d.ht := rfl
@[simp] theorem placeRelease_pc (h : Byte) (o : RelOutcome) : (Dev.placeRelease h o d).pc = d.pc := rfl
@[simp] theorem placeRelease_rs (h : Byte) (o : RelOutcome) : (Dev.placeRelease h o d).rs = d.rs := rfl
@[simp] theorem placeRelease_oqs (h : Byte) (o : RelOutcome) : (Dev.placeRelease h o d).oqs = d.oqs := rfl
@[simp] theorem placeRelease_pu (h : Byte) (o : RelOutcome) : (Dev.placeRelease h o d).pu = d.pu := rfl

/-! ### Records by number -/

@[simp] theorem rosterAt_modRoster (p : Pc) (s : Station) (f : RosterRec → RosterRec) :
    (p.modRoster s f).rosterAt s = f (p.rosterAt s) := by
  simp [Pc.modRoster, Pc.rosterAt]

theorem rosterAt_modRoster_ne (p : Pc) (s x : Station) (f : RosterRec → RosterRec) (h : x ≠ s) :
    (p.modRoster s f).rosterAt x = p.rosterAt x := by
  have hn : s.toNat ≠ x.toNat := fun e => h (BitVec.eq_of_toNat_eq e.symm)
  simp [Pc.modRoster, Pc.rosterAt, hn]

@[simp] theorem modRoster_presence (p : Pc) (s : Station) (f : RosterRec → RosterRec) :
    (p.modRoster s f).presence = p.presence := rfl

@[simp] theorem modRoster_station (p : Pc) (s : Station) (f : RosterRec → RosterRec) :
    (p.modRoster s f).station = p.station := rfl

@[simp] theorem regionAt_modRegion (r : Rs) (n : RegionNo) (f : Region → Region) :
    (r.modRegion n f).regionAt n = f (r.regionAt n) := by
  simp [Rs.modRegion, Rs.regionAt]

theorem regionAt_modRegion_ne (r : Rs) (n x : RegionNo) (f : Region → Region) (h : x ≠ n) :
    (r.modRegion n f).regionAt x = r.regionAt x := by
  have hn : n.toNat ≠ x.toNat := fun e => h (BitVec.eq_of_toNat_eq e.symm)
  simp [Rs.modRegion, Rs.regionAt, hn]

@[simp] theorem modRegion_hold (r : Rs) (n : RegionNo) (f : Region → Region) :
    (r.modRegion n f).hold = r.hold := rfl

@[simp] theorem modRegion_levels (r : Rs) (n : RegionNo) (f : Region → Region) :
    ((r.modRegion n f).startLevel, (r.modRegion n f).endLevel) = (r.startLevel, r.endLevel) := rfl

/-! ### Notices -/

@[simp] theorem endTake_goReserved (p : Pu) : p.endTake.goReserved = p.goReserved := rfl
@[simp] theorem endTake_takeLeft (p : Pu) : p.endTake.takeLeft = 0 := rfl
@[simp] theorem endTake_notices (p : Pu) : p.endTake.notices = p.notices.tail := rfl

/-- Judging a notice and counting it for a TAKE leave the rest of the port unit alone. -/
theorem push_rest (p : Pu) (n : Notice) : p.push n =
    { p with notices := (p.push n).notices, takeLeft := (p.push n).takeLeft, lost := (p.push n).lost,
             portError := (p.push n).portError } := by
  unfold Pu.push Pu.countTake Pu.endTake Pu.judge; split_ifs <;> rfl

@[simp] theorem push_goReserved (p : Pu) (n : Notice) : (p.push n).goReserved = p.goReserved := by rw [push_rest]
@[simp] theorem push_setupLock (p : Pu) (n : Notice) : (p.push n).setupLock = p.setupLock := by rw [push_rest]
@[simp] theorem push_malformed (p : Pu) (n : Notice) : (p.push n).malformed = p.malformed := by rw [push_rest]
@[simp] theorem push_csLow (p : Pu) (n : Notice) : (p.push n).csLow = p.csLow := by rw [push_rest]
@[simp] theorem push_sdo (p : Pu) (n : Notice) : (p.push n).sdo = p.sdo := by rw [push_rest]

/-- A notice joins a queue with room. -/
theorem push_joins (p : Pu) (n : Notice)
    (h : p.notices.length < Config.noticeCap - (if p.goReserved then 1 else 0)) :
    p.push n = Pu.countTake { p with notices := p.notices ++ [n] } := by
  unfold Pu.push Pu.judge; rw [if_pos h]

/-- A notice that finds no room is dropped and counted. -/
theorem push_drops (p : Pu) (n : Notice)
    (h : ¬ p.notices.length < Config.noticeCap - (if p.goReserved then 1 else 0)) :
    p.push n = Pu.countTake { p with lost := inc16 p.lost, portError := true } := by
  unfold Pu.push Pu.judge; rw [if_neg h]

/-- With no TAKE under way a judged notice ends none. -/
theorem countTake_idle (p : Pu) (h : p.takeLeft = 0) : p.countTake = p := by
  unfold Pu.countTake; rw [if_neg (by omega), h]; exact congrArg (fun k => { p with takeLeft := k }) h.symm

/-- A TAKE that stays under way behind this notice alone ends with it. -/
theorem countTake_last (p : Pu) (h : p.takeLeft = 1) : p.countTake = p.endTake := by
  unfold Pu.countTake; rw [if_pos h]

/-- A TAKE that stays under way behind later notices too goes on. -/
theorem countTake_more (p : Pu) (k : Nat) (h : p.takeLeft = k + 2) : p.countTake = { p with takeLeft := k + 1 } := by
  unfold Pu.countTake; rw [if_neg (by omega), h]; rfl

end Sys2Proof.Laws
end

