-- ==== Sys2Proof/Laws/Close.lean ====
section
/-! SUPPORT. What the close of a step can change, proved once. -/

namespace Sys2Proof.Machine

theorem Dev.SameButClose.refl (d : Dev) : d.SameButClose d :=
  ⟨rfl, rfl, rfl, rfl, rfl, rfl, rfl, fun _ => rfl, rfl⟩

theorem Dev.SameButClose.trans {a b c : Dev} (h : a.SameButClose b) (k : b.SameButClose c) : a.SameButClose c := by
  obtain ⟨h1, h2, h3, h4, h5, h6, h7, h8, h9⟩ := h
  obtain ⟨k1, k2, k3, k4, k5, k6, k7, k8, k9⟩ := k
  refine ⟨k1.trans h1, k2.trans h2, k3.trans h3, k4.trans h4, ?_, ?_, ?_, ?_, h9.trans k9⟩
  · rw [k5, h5]
  · rw [k6, h6]
  · rw [k7, h7]
  · intro n; rw [k8 n, h8 n]

end Sys2Proof.Machine

namespace Sys2Proof.Laws

open Sys2Proof.Machine

/-- A change of entries that keeps what they are. -/
theorem sameButClose_queue (d : Dev) (q : List Entry) (st : Option Time) (due : Bool)
    (h : sameEntries d.oqs.queue q) :
    d.SameButClose { d with oqs := { queue := q, selTimer := st, selectDue := due } } :=
  ⟨rfl, rfl, rfl, rfl, rfl, rfl, rfl, fun _ => rfl, h⟩

theorem sameEntries_map (l : List Entry) (f : Entry → Entry)
    (h : ∀ e, (f e).tag = e.tag ∧ (f e).cls = e.cls ∧ (f e).region = e.region ∧ (f e).deadline = e.deadline ∧
      (f e).overdue = e.overdue) : sameEntries l (l.map f) := by
  unfold sameEntries
  rw [List.map_map]
  apply List.map_congr_left
  intro e _
  obtain ⟨h1, h2, h3, h4, h5⟩ := h e
  simp [h1, h2, h3, h4, h5]

theorem sameEntries_flagFirst (p : Entry → Bool) (l : List Entry) : sameEntries l (flagFirst p l) := by
  unfold sameEntries
  induction l with
  | nil => rfl
  | cons e es ih =>
    unfold flagFirst
    split
    · rfl
    · simp only [List.map_cons, ih]

/-- A selection called for changes no entry. -/
theorem prompt_same (d : Dev) : d.SameButClose d.prompt := sameButClose_queue d d.oqs.queue d.oqs.selTimer true rfl

theorem noteTake_same (b d : Dev) : d.SameButClose (Dev.noteTake b d) := by
  unfold Dev.noteTake
  split_ifs
  · exact sameButClose_queue d d.oqs.queue _ _ rfl
  · exact Dev.SameButClose.refl d

/-- A selection is due as the step closes exactly where an event of R157 is noted or a TAKE ended in the step. -/
theorem noteTake_due (b d : Dev) : (Dev.noteTake b d).oqs.selectDue = true ↔ Dev.SelectionDue b d := by
  unfold Dev.noteTake Dev.SelectionDue; split_ifs with h
  · simp [h]
  · simp [h]

/-- In a step that found no TAKE under way none ends. -/
theorem noteTake_idle (b d : Dev) (h : b.pu.takeLeft = 0) : Dev.noteTake b d = d := by
  unfold Dev.noteTake; rw [if_neg (fun k => k.1 h)]

theorem keepHeadTimer_same (b d : Dev) : d.SameButClose (Dev.keepHeadTimer b d) := by
  unfold Dev.keepHeadTimer
  split_ifs
  · exact Dev.SameButClose.refl d
  · exact ⟨rfl, rfl, rfl, rfl, rfl, rfl, rfl, fun _ => rfl, rfl⟩
  · exact ⟨rfl, rfl, rfl, rfl, rfl, rfl, rfl, fun _ => rfl, rfl⟩

theorem clearStaleFlags_same (d : Dev) : d.SameButClose d.clearStaleFlags := by
  unfold Dev.clearStaleFlags
  split_ifs
  · exact sameButClose_queue d _ _ _ (sameEntries_map _ _ (fun _ => ⟨rfl, rfl, rfl, rfl, rfl⟩))
  · exact Dev.SameButClose.refl d

theorem placeEnqueue_same (d : Dev) : d.SameButClose d.placeEnqueue := by
  unfold Dev.placeEnqueue
  split_ifs
  · exact ⟨rfl, rfl, rfl, rfl, rfl, rfl, rfl, fun _ => rfl, sameEntries_flagFirst _ _⟩
  · exact Dev.SameButClose.refl d

theorem stageClaim_same (c : Cls) (t : Target) (g : Option Byte) (d : Dev) : d.SameButClose (d.stageClaim c t g) :=
  ⟨rfl, rfl, rfl, rfl, rfl, rfl, rfl, fun _ => rfl, rfl⟩

theorem modEntry_same (t : Byte) (f : Entry → Entry) (d : Dev)
    (h : ∀ e, (f e).tag = e.tag ∧ (f e).cls = e.cls ∧ (f e).region = e.region ∧ (f e).deadline = e.deadline ∧
      (f e).overdue = e.overdue) : d.SameButClose (d.modEntry t f) := by
  refine sameButClose_queue d _ _ _ (sameEntries_map _ _ ?_)
  intro e
  split_ifs
  · exact h e
  · exact ⟨rfl, rfl, rfl, rfl, rfl⟩

theorem markStaged_same (r : RegionNo) (d : Dev) (b : Bool) :
    d.SameButClose (d.modRegion r (fun x => { x with stagedRfb := b })) := by
  refine ⟨rfl, rfl, rfl, rfl, rfl, rfl, rfl, ?_, rfl⟩
  intro n
  by_cases h : n = r
  · subst h; simp
  · simp [regionAt_modRegion_ne _ _ _ _ h]

theorem stageRfb_same (r : RegionNo) (d : Dev) : d.SameButClose (d.stageRfb r) :=
  (stageClaim_same _ _ _ d).trans (markStaged_same r _ true)

theorem stageEntry_same (t : Byte) (d : Dev) : d.SameButClose (d.stageEntry t) := by
  unfold Dev.stageEntry
  split
  · exact (stageClaim_same _ _ _ d).trans (modEntry_same _ _ _ (fun _ => ⟨rfl, rfl, rfl, rfl, rfl⟩))
  · exact Dev.SameButClose.refl d

theorem bump_same (l : List Byte) (d : Dev) : d.SameButClose (d.bump l) := by
  refine sameButClose_queue d _ _ _ (sameEntries_map _ _ ?_)
  intro e
  split_ifs <;> exact ⟨rfl, rfl, rfl, rfl, rfl⟩

theorem selectPullIn_same (l : List Byte) (d : Dev) : d.SameButClose (d.selectPullIn l) := by
  unfold Dev.selectPullIn
  split
  · split_ifs
    · exact (bump_same l d).trans (stageRfb_same _ _)
    · exact Dev.SameButClose.refl d
  · exact Dev.SameButClose.refl d

theorem selectLocal_same (d : Dev) : d.SameButClose d.selectLocal := by
  unfold Dev.selectLocal
  split_ifs
  · exact selectPullIn_same _ d
  · split
    · exact (bump_same _ d).trans (stageEntry_same _ _)
    · exact Dev.SameButClose.refl d
    · exact selectPullIn_same _ d

theorem selectOnce_same (d : Dev) : d.SameButClose d.selectOnce := by
  unfold Dev.selectOnce
  split
  · split_ifs
    · exact stageRfb_same _ d
    · exact selectLocal_same d
  · exact selectLocal_same d

theorem runSelection_same (d : Dev) : d.SameButClose d.runSelection := by
  unfold Dev.runSelection
  split_ifs
  · exact (sameButClose_queue d d.oqs.queue _ _ rfl).trans (selectOnce_same _)
  · exact sameButClose_queue d d.oqs.queue _ _ rfl
  · exact Dev.SameButClose.refl d

theorem keepSelTimer_same (d : Dev) : d.SameButClose d.keepSelTimer := by
  unfold Dev.keepSelTimer
  split_ifs
  · split
    · exact Dev.SameButClose.refl d
    · exact sameButClose_queue d d.oqs.queue _ _ rfl
  · exact sameButClose_queue d d.oqs.queue _ _ rfl

/-- Everything the close of a step can do. -/
theorem close_same (b d : Dev) : d.SameButClose (Dev.close b d) :=
  (((((noteTake_same b d).trans (keepHeadTimer_same b _)).trans (clearStaleFlags_same _)).trans
    (placeEnqueue_same _)).trans (runSelection_same _)).trans (keepSelTimer_same _)

@[simp] theorem close_now (b d : Dev) : (Dev.close b d).now = d.now := (close_same b d).1
@[simp] theorem close_resetKind (b d : Dev) : (Dev.close b d).resetKind = d.resetKind := (close_same b d).2.1
@[simp] theorem close_pc (b d : Dev) : (Dev.close b d).pc = d.pc := (close_same b d).2.2.1
@[simp] theorem close_pu (b d : Dev) : (Dev.close b d).pu = d.pu := (close_same b d).2.2.2.1

theorem close_ht (b d : Dev) : (Dev.close b d).ht =
    { d.ht with handleCtr := (Dev.close b d).ht.handleCtr, headTimer := (Dev.close b d).ht.headTimer } :=
  (close_same b d).2.2.2.2.1

theorem close_biu (b d : Dev) : (Dev.close b d).biu =
    { d.biu with outbox := { d.biu.outbox with claim := (Dev.close b d).biu.outbox.claim,
                                               intent := (Dev.close b d).biu.outbox.intent } } :=
  (close_same b d).2.2.2.2.2.1

@[simp] theorem close_holdings (b d : Dev) : (Dev.close b d).ht.holdings = d.ht.holdings := by rw [close_ht]
@[simp] theorem close_surge (b d : Dev) : (Dev.close b d).ht.surge = d.ht.surge := by rw [close_ht]
@[simp] theorem close_pleas (b d : Dev) : (Dev.close b d).ht.pleas = d.ht.pleas := by rw [close_ht]
@[simp] theorem close_calQueue (b d : Dev) : (Dev.close b d).ht.calQueue = d.ht.calQueue := by rw [close_ht]
@[simp] theorem close_nextTicket (b d : Dev) : (Dev.close b d).ht.nextTicket = d.ht.nextTicket := by rw [close_ht]
@[simp] theorem close_forced (b d : Dev) : (Dev.close b d).ht.forced = d.ht.forced := by rw [close_ht]
@[simp] theorem close_contests (b d : Dev) : (Dev.close b d).ht.contests = d.ht.contests := by rw [close_ht]
@[simp] theorem close_inHand (b d : Dev) : (Dev.close b d).biu.inHand = d.biu.inHand := by rw [close_biu]
@[simp] theorem close_line (b d : Dev) : (Dev.close b d).biu.line = d.biu.line := by rw [close_biu]
@[simp] theorem close_busFree (b d : Dev) : (Dev.close b d).biu.busFree = d.biu.busFree := by rw [close_biu]
@[simp] theorem close_losses (b d : Dev) : (Dev.close b d).biu.losses = d.biu.losses := by rw [close_biu]
@[simp] theorem close_consecErrors (b d : Dev) : (Dev.close b d).biu.consecErrors = d.biu.consecErrors := by
  rw [close_biu]
@[simp] theorem close_totalErrors (b d : Dev) : (Dev.close b d).biu.totalErrors = d.biu.totalErrors := by
  rw [close_biu]
@[simp] theorem close_undelivered (b d : Dev) : (Dev.close b d).biu.undelivered = d.biu.undelivered := by
  rw [close_biu]
@[simp] theorem close_rxDiscards (b d : Dev) : (Dev.close b d).biu.rxDiscards = d.biu.rxDiscards := by rw [close_biu]
@[simp] theorem close_seqCtr (b d : Dev) : (Dev.close b d).biu.seqCtr = d.biu.seqCtr := by rw [close_biu]

theorem close_rs (b d : Dev) : (Dev.close b d).rs = { d.rs with regions := (Dev.close b d).rs.regions } :=
  (close_same b d).2.2.2.2.2.2.1
@[simp] theorem close_hold (b d : Dev) : (Dev.close b d).rs.hold = d.rs.hold := by rw [close_rs]
@[simp] theorem close_grade (b d : Dev) : (Dev.close b d).rs.grade = d.rs.grade := by rw [close_rs]
@[simp] theorem close_urgency (b d : Dev) : (Dev.close b d).rs.urgency = d.rs.urgency := by rw [close_rs]
@[simp] theorem close_pleaMark (b d : Dev) : (Dev.close b d).rs.pleaMark = d.rs.pleaMark := by rw [close_rs]
@[simp] theorem close_startLevel (b d : Dev) : (Dev.close b d).rs.startLevel = d.rs.startLevel := by rw [close_rs]
@[simp] theorem close_endLevel (b d : Dev) : (Dev.close b d).rs.endLevel = d.rs.endLevel := by rw [close_rs]

theorem close_regionAt (b d : Dev) (n : RegionNo) : (Dev.close b d).rs.regionAt n =
    { d.rs.regionAt n with stagedRfb := ((Dev.close b d).rs.regionAt n).stagedRfb } :=
  (close_same b d).2.2.2.2.2.2.2.1 n
@[simp] theorem close_debt (b d : Dev) (n : RegionNo) :
    ((Dev.close b d).rs.regionAt n).debt = (d.rs.regionAt n).debt := by rw [close_regionAt]
@[simp] theorem close_exempt (b d : Dev) (n : RegionNo) :
    ((Dev.close b d).rs.regionAt n).exempt = (d.rs.regionAt n).exempt := by rw [close_regionAt]
@[simp] theorem close_pointer (b d : Dev) (n : RegionNo) :
    ((Dev.close b d).rs.regionAt n).pointer = (d.rs.regionAt n).pointer := by rw [close_regionAt]
@[simp] theorem close_lapses (b d : Dev) (n : RegionNo) :
    ((Dev.close b d).rs.regionAt n).lapses = (d.rs.regionAt n).lapses := by rw [close_regionAt]
@[simp] theorem close_timer (b d : Dev) (n : RegionNo) :
    ((Dev.close b d).rs.regionAt n).timer = (d.rs.regionAt n).timer := by rw [close_regionAt]

/-- The operations in the local queue stand through the close of a step. -/
theorem close_entries (b d : Dev) : sameEntries d.oqs.queue (Dev.close b d).oqs.queue :=
  (close_same b d).2.2.2.2.2.2.2.2

/-! ### How a command acts -/

/-- A command from outside that can take place acts and closes its step. -/
theorem act_up (can : Dev → Bool) (eff : Dev → Dev) (d : Dev) (hu : d.Up) (hc : can d = true) :
    Dev.act can eff d = Dev.close d (eff d) := by
  unfold Dev.act
  have : (d.pc.presence != .offline) = true := by simpa [Dev.Up] using hu
  simp [this, hc]

/-- A command that cannot take place, or that meets a part held in reset, does nothing. -/
theorem act_not (can : Dev → Bool) (eff : Dev → Dev) (d : Dev) (h : ¬ (d.Up ∧ can d = true)) :
    Dev.act can eff d = d := by
  unfold Dev.act
  have : (d.pc.presence != .offline && can d) = false := by
    by_contra hc
    apply h
    simp only [Bool.not_eq_false, Bool.and_eq_true, bne_iff_ne, ne_eq] at hc
    exact hc
  simp [this]

/-- The passing of time changes no presence state. -/
theorem elapse_up (d : Dev) (dt : Time) : (d.elapse dt).Up ↔ d.Up := Iff.rfl

/-- The meaning of a command from outside whose event can always take place. -/
theorem answer_act (s : State) (dt : Time) (eff : Dev → Dev) (hu : s.dev.Up) :
    s.answer (Dev.act always eff (s.dev.elapse dt)) = .next (s.after dt (eff (s.dev.elapse dt))) := by
  rw [act_up always eff (s.dev.elapse dt) hu rfl]; rfl

/-- An event from outside that can take place acts and closes its step. -/
theorem answer_can (s : State) (dt : Time) (can : Dev → Bool) (eff : Dev → Dev) (hu : s.dev.Up)
    (hc : can (s.dev.elapse dt) = true) :
    s.answer (Dev.act can eff (s.dev.elapse dt)) = .next (s.after dt (eff (s.dev.elapse dt))) := by
  rw [act_up can eff (s.dev.elapse dt) hu hc]; rfl

/-- An event from outside that cannot take place lets its time pass. -/
theorem answer_cannot (s : State) (dt : Time) (can : Dev → Bool) (eff : Dev → Dev)
    (hc : can (s.dev.elapse dt) = false) :
    s.answer (Dev.act can eff (s.dev.elapse dt)) = .next { s with dev := s.dev.elapse dt } := by
  rw [act_not can eff (s.dev.elapse dt) (fun h => by simp [hc] at h)]; rfl

/-- With no TAKE under way none ends. -/
theorem endTake_idle (d : Dev) (h : d.pu.takeLeft = 0) : d.endTake = d := by
  unfold Dev.endTake; rw [if_pos h]

/-- The end of a TAKE is an event of its own, closed like any other. -/
theorem endTake_busy (d : Dev) (h : d.pu.takeLeft ≠ 0) :
    d.endTake = Dev.close d (Dev.prompt { d with pu := d.pu.endTake }) := by
  unfold Dev.endTake; rw [if_neg h]

/-- Everything the end of a TAKE can do: a place is freed, and its step closes. -/
theorem endTake_same (d : Dev) :
    Dev.SameButClose { d with pu := if d.pu.takeLeft = 0 then d.pu else d.pu.endTake } d.endTake := by
  by_cases h : d.pu.takeLeft = 0
  · rw [endTake_idle d h, if_pos h]; exact Dev.SameButClose.refl d
  · rw [endTake_busy d h, if_neg h]
    exact (prompt_same _).trans (close_same _ _)

/-- The end of a TAKE leaves the port unit as it was but for the notice read. -/
theorem endTake_pu (d : Dev) : d.endTake.pu = if d.pu.takeLeft = 0 then d.pu else d.pu.endTake :=
  (endTake_same d).2.2.2.1

/-- Once it has been seen to, no TAKE is under way. -/
@[simp] theorem endTake_ended (d : Dev) : d.endTake.pu.takeLeft = 0 := by
  rw [endTake_pu]; split_ifs with h
  · exact h
  · rfl

/-- A transfer that is taken has its effect, any TAKE still under way having ended. -/
theorem onPort_takes (eff : Dev → Dev) (d : Dev) (h : d.TakesTransfers) : d.onPort eff = eff d.endTake := by
  unfold Dev.onPort; rw [if_neg h.1, if_neg (by simp [h.2])]

/-- A transfer that began before the release of reset brings its end alone. -/
theorem onPort_ignored (eff : Dev → Dev) (d : Dev) (hu : d.Up) (h : d.pu.csLow = true) :
    d.onPort eff = { d with pu.csLow := false, pu.sdo := .highZ } := by
  unfold Dev.onPort; rw [if_neg hu, if_pos h]

/-- While reset is held no transfer is taken. -/
theorem onPort_held (eff : Dev → Dev) (d : Dev) (h : d.pc.presence = .offline) : d.onPort eff = d := by
  unfold Dev.onPort; rw [if_pos h]

/-- The meaning of a transfer that is taken. -/
theorem answer_port (s : State) (dt : Time) (eff : Dev → Dev) (h : s.dev.TakesTransfers) :
    s.answer (Dev.actPort eff (s.dev.elapse dt)) = .next (s.afterPort dt (eff (s.dev.elapse dt).endTake)) := by
  unfold Dev.actPort; rw [onPort_takes _ (s.dev.elapse dt) h]; rfl

/-- The meaning of the end of a running timer. -/
theorem actAt_some (t : Time) (eff : Dev → Dev) (d : Dev) (hu : d.Up) :
    Dev.actAt (some t) eff d = Dev.close (d.elapseTo t) (eff (d.elapseTo t)) :=
  act_up always eff _ hu rfl

/-- A timer that does not run has no end. -/
theorem actAt_none (eff : Dev → Dev) (d : Dev) : Dev.actAt none eff d = d := rfl

end Sys2Proof.Laws
end

