-- ==== Sys2Proof/Laws/Duty.lean ====
section
/-! SUPPORT. Who changes what the retention scheduler keeps: everything but the staged-RFB marks and the plea mark
passes unchanged through every operation but those of chapters 5 and 6 themselves. -/

namespace Sys2Proof.Machine

/-- What the retention scheduler keeps, without the staged-RFB marks and the plea mark. -/
def Rs.core (r : Rs) : Rs :=
  { r with regions := r.regions.map (fun x => { x with stagedRfb := false }), pleaMark := .none }

end Sys2Proof.Machine

namespace Sys2Proof.Laws

open Sys2Proof.Machine

@[simp] theorem core_pleaMark (r : Rs) (m : PleaMark) : Rs.core { r with pleaMark := m } = r.core := rfl

@[simp] theorem core_mark (r : Rs) (n : RegionNo) (b : Bool) :
    (r.modRegion n (fun x => { x with stagedRfb := b })).core = r.core := by
  unfold Rs.modRegion Rs.core
  congr 1
  ext i hi
  all_goals simp only [Vector.getElem_map, Vector.getElem_set, Rs.regionAt]
  all_goals split_ifs with h
  all_goals first | rfl | (subst h; rfl)

theorem regionAt_core (r : Rs) (n : RegionNo) : r.core.regionAt n = { r.regionAt n with stagedRfb := false } := by
  simp [Rs.core, Rs.regionAt]

variable (d : Dev)

@[simp] theorem returnOrigin_core (c : Claim) : (Dev.returnOrigin c d).rs.core = d.rs.core := by
  unfold Dev.returnOrigin; split <;> simp

@[simp] theorem unstage_core (c : Claim) : (Dev.unstage c d).rs.core = d.rs.core := by simp [Dev.unstage]

@[simp] theorem unstageWaiting_core : (Dev.unstageWaiting d).rs.core = d.rs.core := by
  unfold Dev.unstageWaiting; split <;> simp

@[simp] theorem removeEntry_core (t : Byte) : (Dev.removeEntry t d).rs.core = d.rs.core := by
  unfold Dev.removeEntry; split
  · rfl
  · dsimp only; split_ifs <;> rfl

@[simp] theorem endEntry_core (t : Byte) (n : Notice) : (Dev.endEntry t n d).rs.core = d.rs.core := by
  simp [Dev.endEntry]

@[simp] theorem endClaim_core (c : Claim) : (Dev.endClaim c d).rs.core = d.rs.core := by
  unfold Dev.endClaim; split
  · split_ifs <;> simp
  · simp

@[simp] theorem claimBack_core : (Dev.claimBack d).rs.core = d.rs.core := by
  unfold Dev.claimBack; split
  · split_ifs <;> simp
  · rfl

@[simp] theorem close_core (b : Dev) : (Dev.close b d).rs.core = d.rs.core := by
  have h := close_regionAt b d
  rw [close_rs b d]
  unfold Rs.core
  congr 1
  ext i hi
  have hn : i = (BitVec.ofNat 2 i).toNat := by simp only [BitVec.toNat_ofNat]; omega
  have hx := h (BitVec.ofNat 2 i)
  have key : ∀ r : Rs, r.regionAt (BitVec.ofNat 2 i) = r.regions[i] := by
    intro r; simp only [Rs.regionAt]; congr 1; exact hn.symm
  rw [key, key] at hx
  all_goals simp only [Vector.getElem_map]
  all_goals rw [hx]

@[simp] theorem placePleaFor_core (u : Urgency) : (Dev.placePleaFor u d).rs.core = d.rs.core := by
  unfold Dev.placePleaFor; split
  · rfl
  · split <;> rfl
  · split <;> rfl

@[simp] theorem callBack_core : (Dev.callBack d).rs.core = d.rs.core := by
  unfold Dev.callBack; split
  · rfl
  · split_ifs <;> simp

@[simp] theorem urgentUnstage_core : (Dev.urgentUnstage d).rs.core = d.rs.core := by
  unfold Dev.urgentUnstage; split
  · rfl
  · split_ifs <;> simp

/-- The urgency evaluation changes the urgency state alone. -/
theorem evalUrgency_core : (Dev.evalUrgency d).rs.core =
    { d.rs.core with urgency := nextUrgency d.rs.urgency d.rs.greatestDebt d.rs.startLevel d.rs.endLevel } := by
  unfold Dev.evalUrgency
  dsimp only
  split_ifs with h h2
  · rw [h]; rfl
  · simp; rfl
  · simp; rfl

@[simp] theorem answerIfDue_rs : (Dev.answerIfDue d).rs = d.rs := by
  unfold Dev.answerIfDue; split_ifs <;> rfl
@[simp] theorem giveReady_rs : (Dev.giveReady d).rs = d.rs := by
  unfold Dev.giveReady; split_ifs <;> rfl
@[simp] theorem startBeacons_rs : (Dev.startBeacons d).rs = d.rs := by
  unfold Dev.startBeacons; split_ifs <;> rfl
@[simp] theorem markPlea_core : (Dev.markPlea d).rs.core = d.rs.core := by
  unfold Dev.markPlea; split <;> rfl
@[simp] theorem enterListening_rs : (Dev.enterListening d).rs = d.rs := rfl
@[simp] theorem openWindow_rs : (Dev.openWindow d).rs = d.rs := rfl

@[simp] theorem enterMember_core : (Dev.enterMember d).rs.core = d.rs.core := by
  unfold Dev.enterMember; dsimp only; split_ifs <;> simp

@[simp] theorem checkAnswers_core : (Dev.checkAnswers d).rs.core = d.rs.core := by
  unfold Dev.checkAnswers; split
  · split_ifs <;> simp
  · rfl

@[simp] theorem startResync_rs : (Dev.startResync d).rs = d.rs := rfl

@[simp] theorem contest_rs (s : Station) : (Dev.contest s d).rs = d.rs := by
  unfold Dev.contest; dsimp only; split_ifs <;> rfl

@[simp] theorem notifyCancelling_rs : (Dev.notifyCancelling d).rs = d.rs := by
  unfold Dev.notifyCancelling
  generalize d.ownHoldings = l
  induction l generalizing d with
  | nil => rfl
  | cons h t ih =>
    rw [List.foldl_cons, ih]
    split
    · split <;> rfl
    · rfl

@[simp] theorem clearReplica_core : (Dev.clearReplica d).rs.core = d.rs.core := by simp [Dev.clearReplica]

@[simp] theorem emptyClaim_core : (Dev.emptyClaim d).rs.core = d.rs.core := by
  unfold Dev.emptyClaim; split
  · rfl
  · simp
  · split_ifs <;> simp

@[simp] theorem emptyOutbox_core : (Dev.emptyOutbox d).rs.core = d.rs.core := by
  unfold Dev.emptyOutbox; dsimp only; split
  · split_ifs <;> simp
  · simp

@[simp] theorem recover_core : (Dev.recover d).rs.core = d.rs.core := by simp [Dev.recover]

@[simp] theorem linkFault_core (c : LinkCause) : (Dev.linkFault c d).rs.core = d.rs.core := by
  unfold Dev.linkFault; dsimp only; split_ifs <;> simp

@[simp] theorem configFault_core (c : CfgCause) : (Dev.configFault c d).rs.core = d.rs.core := by
  simp [Dev.configFault]

/-! ### Own frames -/

@[simp] theorem retest_core : (Dev.retest d).rs.core = d.rs.core := by
  unfold Dev.retest; split
  · rfl
  · split_ifs <;> simp

@[simp] theorem startAttempt_rs (o : Offer) : (Dev.startAttempt o d).rs = d.rs := rfl
@[simp] theorem startRepeat_rs (f : InHand) : (Dev.startRepeat f d).rs = d.rs := rfl

@[simp] theorem busFree_core : (Dev.busFree d).rs.core = d.rs.core := by
  unfold Dev.busFree; dsimp only; split
  · split_ifs <;> simp
  · split_ifs
    · split <;> simp
    · simp

@[simp] theorem leaveSlot_core (f : InHand) : (Dev.leaveSlot f d).rs.core = d.rs.core := by
  unfold Dev.leaveSlot; dsimp only; split_ifs
  · rfl
  · split <;> simp
  · rfl

@[simp] theorem attemptFailed_core : (Dev.attemptFailed d).rs.core = d.rs.core := by
  unfold Dev.attemptFailed; split
  · rfl
  · dsimp only; split_ifs <;> simp

@[simp] theorem arbitrationLost_core : (Dev.arbitrationLost d).rs.core = d.rs.core := by simp [Dev.arbitrationLost]

@[simp] theorem bitError_core : (Dev.bitError d).rs.core = d.rs.core := by
  unfold Dev.bitError; dsimp only; split_ifs <;> simp

@[simp] theorem addOwnRecord_rs (c : Claim) (b : Bool) : (Dev.addOwnRecord c b d).rs = d.rs := by
  unfold Dev.addOwnRecord; dsimp only; split_ifs <;> simp

@[simp] theorem claimGranted_core (c : Claim) : (Dev.claimGranted c d).rs.core = d.rs.core := by
  unfold Dev.claimGranted; split <;> simp

@[simp] theorem goOrCancel_rs (c : Claim) : (Dev.goOrCancel c d).rs = d.rs := by
  unfold Dev.goOrCancel; split_ifs <;> rfl

@[simp] theorem ownClaimDelivered_core (b : Bool) : (Dev.ownClaimDelivered b d).rs.core = d.rs.core := by
  unfold Dev.ownClaimDelivered; split <;> simp

@[simp] theorem ownExtendDelivered_rs (h n : Byte) : (Dev.ownExtendDelivered h n d).rs = d.rs := rfl

@[simp] theorem ownIntentDelivered_rs (a : IntentAction) (t : Word16) : (Dev.ownIntentDelivered a t d).rs = d.rs := by
  unfold Dev.ownIntentDelivered; dsimp only; split_ifs <;> rfl

@[simp] theorem ownJoinDelivered_core : (Dev.ownJoinDelivered d).rs.core = d.rs.core := by
  unfold Dev.ownJoinDelivered; dsimp only; split_ifs <;> simp

@[simp] theorem ownResyncDelivered_core : (Dev.ownResyncDelivered d).rs.core = d.rs.core := by
  unfold Dev.ownResyncDelivered; dsimp only; split_ifs <;> simp

@[simp] theorem ownLeaveDelivered_core : (Dev.ownLeaveDelivered d).rs.core = d.rs.core := by
  unfold Dev.ownLeaveDelivered; dsimp only; split_ifs <;> simp

@[simp] theorem afterSend_core : (Dev.afterSend d).rs.core = d.rs.core := by
  unfold Dev.afterSend; split
  · rfl
  · dsimp only; split_ifs <;> simp

/-! ### Frames received -/

@[simp] theorem modTally_rs (s : Station) (f : Tally → Tally) : (Dev.modTally s f d).rs = d.rs := by
  unfold Dev.modTally; split <;> rfl
@[simp] theorem excludeTally_rs (s : Station) : (Dev.excludeTally s d).rs = d.rs := by simp [Dev.excludeTally]
@[simp] theorem dropStation_rs (s : Station) : (Dev.dropStation s d).rs = d.rs := by
  unfold Dev.dropStation; split_ifs <;> rfl

@[simp] theorem claimApplied_rs (s : Station) (u : Bool) (h : Byte) (c : Cls) (t : Target) :
    (Dev.claimApplied s u h c t d).rs = d.rs := by
  unfold Dev.claimApplied; dsimp only; split_ifs <;> simp

@[simp] theorem releaseApplied_rs (s : Station) (h : Byte) (o : RelOutcome) :
    (Dev.releaseApplied s h o d).rs = d.rs := by
  unfold Dev.releaseApplied; split
  · rfl
  · dsimp only; split_ifs <;> rfl

@[simp] theorem extendApplied_rs (s : Station) (h n : Byte) : (Dev.extendApplied s h n d).rs = d.rs := by
  unfold Dev.extendApplied; split
  · rfl
  · split_ifs <;> rfl

@[simp] theorem tableApply_rs (s : Station) (b : Body) : (Dev.tableApply s b d).rs = d.rs := by
  unfold Dev.tableApply; split
  · split <;> simp
  · simp
  · simp
  · rfl
  · rfl
  · split <;> rfl
  all_goals rfl

theorem countIfSyncing_rs (s : Station) (f : Tally → Tally) :
    (if d.pc.presence = .syncing then Dev.modTally s f d else d).rs = d.rs := by
  split_ifs <;> simp

@[simp] theorem holdingApplied_rs (s : Station) (h c u t e r : Byte) :
    (Dev.holdingApplied s h c u t e r d).rs = d.rs := by
  unfold Dev.holdingApplied; split
  · rfl
  · split
    · rfl
    · simp only [prompt_rs, countIfSyncing_rs]
      split
      · rfl
      · split_ifs <;> simp

@[simp] theorem summaryApplied_rs (s : Station) (f : Byte) (t n : Word16) :
    (Dev.summaryApplied s f t n d).rs = d.rs := by
  unfold Dev.summaryApplied; split_ifs
  all_goals first | rfl | (simp only [modTally_rs]; split <;> (try split_ifs) <;> rfl)

@[simp] theorem beaconApplied_rs (s : Station) (g : Word16) (f : Byte) : (Dev.beaconApplied s g f d).rs = d.rs := by
  unfold Dev.beaconApplied; dsimp only; split_ifs <;> simp

@[simp] theorem leaveApplied_rs (s : Station) : (Dev.leaveApplied s d).rs = d.rs := by simp [Dev.leaveApplied]

@[simp] theorem joinApplied_rs (s : Station) (q : Byte) : (Dev.joinApplied s q d).rs = d.rs := by
  simp [Dev.joinApplied]

@[simp] theorem presenceApply_rs (hd : Head) (b : Body) : (Dev.presenceApply hd b d).rs = d.rs := by
  unfold Dev.presenceApply; dsimp only; split
  all_goals first | (split_ifs <;> simp) | simp

@[simp] theorem discardFrame_rs : (Dev.discardFrame d).rs = d.rs := rfl

@[simp] theorem ownNumber_core : (Dev.ownNumber d).rs.core = d.rs.core := by
  unfold Dev.ownNumber; dsimp only; split_ifs <;> simp

@[simp] theorem applyFrame_core (hd : Head) (b : Body) : (Dev.applyFrame hd b d).rs.core = d.rs.core := by
  unfold Dev.applyFrame; dsimp only; split_ifs <;> simp

@[simp] theorem receive_core (hd : Head) (b : Body) : (Dev.receive hd b d).rs.core = d.rs.core := by
  unfold Dev.receive; dsimp only; split_ifs
  · rfl
  · simp
  · rfl
  · rfl
  · split <;> simp
  · rfl

@[simp] theorem rawFrame_core (raw : RawFrame) : (Dev.rawFrame raw d).rs.core = d.rs.core := by
  unfold Dev.rawFrame; split <;> simp

/-! ### Timers, requests and transfers -/

@[simp] theorem listenEnd_rs : (Dev.listenEnd d).rs = d.rs := rfl
@[simp] theorem beaconDue_rs (t : Time) : (Dev.beaconDue t d).rs = d.rs := rfl
@[simp] theorem fallSilent_core (s : Station) : (Dev.fallSilent s d).rs.core = d.rs.core := by simp [Dev.fallSilent]
@[simp] theorem expirePeer_rs (s : Station) (h : Byte) : (Dev.expirePeer s h d).rs = d.rs := rfl
@[simp] theorem leaseExtend_rs (x : Holding) (p : OwnPart) (t : Time) : (Dev.leaseExtend x p t d).rs = d.rs := rfl
@[simp] theorem leaseForce_rs (x : Holding) (p : OwnPart) : (Dev.leaseForce x p d).rs = d.rs := rfl
@[simp] theorem leaseExpire_rs (h : Byte) (t : Time) : (Dev.leaseExpire h t d).rs = d.rs := by
  unfold Dev.leaseExpire; split
  · rfl
  · split
    · rfl
    · split_ifs <;> simp
@[simp] theorem headExpire_rs : (Dev.headExpire d).rs = d.rs := by
  unfold Dev.headExpire; dsimp only; split_ifs <;> rfl
@[simp] theorem dropEntry_core (e : Entry) (n : Notice) : (Dev.dropEntry e n d).rs.core = d.rs.core := by
  unfold Dev.dropEntry; split_ifs <;> simp
@[simp] theorem deadlinePass_core (t : Byte) : (Dev.deadlinePass t d).rs.core = d.rs.core := by
  unfold Dev.deadlinePass; split
  · rfl
  · split_ifs <;> simp
@[simp] theorem submitRequest_rs (t c r : Byte) (n : Word16) : (Dev.submitRequest t c r n d).rs = d.rs := by
  unfold Dev.submitRequest; split
  · rfl
  · split <;> rfl
@[simp] theorem cancelSending_rs (t : Byte) : (Dev.cancelSending t d).rs = d.rs := by
  unfold Dev.cancelSending; split
  · split_ifs <;> rfl
  · rfl
@[simp] theorem cancelRequest_core (t : Byte) : (Dev.cancelRequest t d).rs.core = d.rs.core := by
  unfold Dev.cancelRequest; split
  · rfl
  · split_ifs <;> simp
@[simp] theorem doneRequest_rs (h o : Byte) : (Dev.doneRequest h o d).rs = d.rs := by
  unfold Dev.doneRequest; split
  · rfl
  · split
    · unfold Dev.lateDone; dsimp only; split_ifs <;> rfl
    · split_ifs <;> rfl
@[simp] theorem leaveRequest_core : (Dev.leaveRequest d).rs.core = d.rs.core := by
  unfold Dev.leaveRequest; dsimp only; split_ifs <;> simp
@[simp] theorem rejoinRequest_rs : (Dev.rejoinRequest d).rs = d.rs := by
  unfold Dev.rejoinRequest; split_ifs <;> rfl
@[simp] theorem queryRequest_rs (t p : Byte) : (Dev.queryRequest t p d).rs = d.rs := by
  unfold Dev.queryRequest Dev.built; split_ifs <;> rfl
@[simp] theorem discardPut_rs : (Dev.discardPut d).rs = d.rs := rfl
@[simp] theorem take_rs (n : TakeClocks) : (Dev.take n d).rs = d.rs := by
  unfold Dev.take; split
  · rfl
  · dsimp only; split_ifs <;> rfl
@[simp] theorem peek_rs (n : Nat) : (Dev.peek n d).rs = d.rs := rfl

end Sys2Proof.Laws
end

