-- ==== Sys2Proof/Laws/Offer.lean ====
section
/-! SUPPORT. What the BIU can offer: the slot, the content and the number of every frame it may start. -/

namespace Sys2Proof.Laws

open Sys2Proof.Machine

variable {d : Dev} {o : Offer}

/-- What holds of every offer: it comes from the CLAIM slot exactly when its content is a claim, and then it is the
claim that stands there, in MEMBER. -/
def OfferFits (d : Dev) (o : Offer) : Prop :=
  (o.ref = .claim ↔ isClaimFrame o.body = true) ∧
    (o.ref = .claim → d.pc.presence = .member ∧ ∃ c, d.biu.outbox.claim = some c ∧ o.body = c.body ∧ o.seq = c.seq)

theorem release_fits (h : d.biu.outbox.offerRelease = some o) : OfferFits d o := by
  obtain ⟨x, -, rfl⟩ := Option.map_eq_some_iff.mp h
  simp [OfferFits, isClaimFrame]

theorem extend_fits (h : d.biu.outbox.offerExtend = some o) : OfferFits d o := by
  obtain ⟨x, -, h⟩ := Option.bind_eq_some_iff.mp h
  obtain ⟨x, -, rfl⟩ := Option.map_eq_some_iff.mp h
  simp [OfferFits, isClaimFrame]

theorem claim_fits {u : Bool} (h : d.offerClaim u = some o) : OfferFits d o := by
  unfold Dev.offerClaim at h
  split_ifs at h with hp
  obtain ⟨c, hc, h⟩ := Option.bind_eq_some_iff.mp h
  split_ifs at h
  cases h
  exact ⟨⟨fun _ => rfl, fun _ => rfl⟩, fun _ => ⟨hp, c, hc, rfl, rfl⟩⟩

theorem plea_fits (h : d.biu.outbox.offerPlea = some o) : OfferFits d o := by
  obtain ⟨x, -, rfl⟩ := Option.map_eq_some_iff.mp h
  rcases x with ⟨b, q⟩
  cases b <;> simp [OfferFits, isClaimFrame]

theorem intent_fits (h : d.offerIntent = some o) : OfferFits d o := by
  unfold Dev.offerIntent at h
  split_ifs at h
  obtain ⟨x, -, rfl⟩ := Option.map_eq_some_iff.mp h
  rcases x with ⟨b, q⟩
  cases b <;> simp [OfferFits, isClaimFrame, Dev.intentBody]

theorem holding_fits (h : d.offerHolding = some o) : OfferFits d o := by
  unfold Dev.offerHolding at h
  split_ifs at h
  obtain ⟨f, -, h⟩ := List.exists_of_findSome?_eq_some h
  obtain ⟨x, -, h⟩ := Option.bind_eq_some_iff.mp h
  obtain ⟨p, -, rfl⟩ := Option.map_eq_some_iff.mp h
  simp [OfferFits, isClaimFrame, Dev.holdingBody]

theorem summary_fits (h : d.offerSummary = some o) : OfferFits d o := by
  obtain ⟨x, -, rfl⟩ := Option.map_eq_some_iff.mp h
  simp [OfferFits, isClaimFrame, Dev.summaryBody]

theorem resync_fits (h : d.biu.outbox.offerResync = some o) : OfferFits d o := by
  obtain ⟨x, -, rfl⟩ := Option.map_eq_some_iff.mp h
  simp [OfferFits, isClaimFrame]

theorem beacon_fits (h : d.offerBeacon = some o) : OfferFits d o := by
  obtain ⟨x, -, rfl⟩ := Option.map_eq_some_iff.mp h
  simp [OfferFits, isClaimFrame, Dev.beaconBody]

theorem join_fits {k : JoinKind} (h : d.offerJoin k = some o) : OfferFits d o := by
  obtain ⟨x, -, h⟩ := Option.bind_eq_some_iff.mp h
  split_ifs at h
  cases h
  cases k <;> simp [OfferFits, isClaimFrame]

/-- Everything the BIU may start fits its slot. -/
theorem firstOffer_fits (h : d.firstOffer = some o) : OfferFits d o := by
  unfold Dev.firstOffer at h
  simp only [Option.orElse_eq_orElse, Option.orElse_eq_or, Option.or_eq_some_iff] at h
  rcases h with h | ⟨-, h | ⟨-, h | ⟨-, h | ⟨-, h | ⟨-, h | ⟨-, h | ⟨-, h | ⟨-, h | ⟨-, h | ⟨-, h | ⟨-, h⟩⟩⟩⟩⟩⟩⟩⟩⟩⟩⟩
  · exact release_fits h
  · exact extend_fits h
  · exact claim_fits h
  · exact plea_fits h
  · exact claim_fits h
  · exact intent_fits h
  · exact holding_fits h
  · exact summary_fits h
  · exact resync_fits h
  · exact beacon_fits h
  · exact join_fits h
  · exact join_fits h

end Sys2Proof.Laws
end

