-- ==== Sys2Proof/Laws/Ops.lean ====
section
/-! SUPPORT. The named operations over the blocks' data: bounds of the counters and lists, the order of the holdings
list, and one entry per station in the calibration queue; and the slots of the acknowledgement bytes. -/

namespace Sys2Proof.Laws

open Sys2Proof.Machine

/-! ### Counters -/

theorem satInc_le (limit n : Nat) (h : n ≤ limit) : satInc limit n ≤ limit := by
  unfold satInc; split_ifs <;> omega

theorem inc16_le (n : Nat) (h : n ≤ 65535) : inc16 n ≤ 65535 := satInc_le _ _ h

theorem inc16_lt (n : Nat) (h : n < 65535) : inc16 n = n + 1 := by
  unfold inc16 satInc Config.counterMax; rw [if_pos h]

/-! ### Acknowledgement slots -/

/-- Which slots the two acknowledgement bytes show dominant. -/
theorem ackSlots_bit (a b : Byte) (x : Station) :
    inMask (ackSlots a b) x = !(if x.toNat < 8 then a.getLsbD (7 - x.toNat) else b.getLsbD (15 - x.toNat)) := by
  have h := x.isLt
  unfold inMask ackSlots
  simp only [BitVec.getLsbD_not, BitVec.getLsbD_append, BitVec.getLsbD_reverse, BitVec.getMsbD_eq_getLsbD]
  split_ifs with h1
  · simp [show x.toNat < 16 by omega, h1]
  · simp [show x.toNat < 16 by omega, show x.toNat - 8 < 8 by omega, show 7 - (x.toNat - 8) = 15 - x.toNat by omega]

/-- The slots driven are the slots read. -/
theorem ackSlots_slotBytes (m : BitVec 16) :
    ackSlots (~~~(m.extractLsb' 0 8)).reverse (~~~(m.extractLsb' 8 8)).reverse = m := by
  apply BitVec.eq_of_getLsbD_eq
  intro i hi
  have h := ackSlots_bit (~~~(m.extractLsb' 0 8)).reverse (~~~(m.extractLsb' 8 8)).reverse (BitVec.ofNat 4 i)
  have hn : (BitVec.ofNat 4 i).toNat = i := by rw [BitVec.toNat_ofNat]; omega
  unfold inMask at h
  rw [hn] at h
  rw [h]
  simp only [BitVec.getLsbD_reverse, BitVec.getMsbD_eq_getLsbD, BitVec.getLsbD_not, BitVec.getLsbD_extractLsb']
  split_ifs with h1
  · simp [show 7 - i < 8 by omega, show 8 - 1 - (7 - i) = i by omega, h1]
  · simp [show 15 - i < 8 by omega, show 7 - (15 - i) = i - 8 by omega, show i - 8 < 8 by omega,
      show 8 + (i - 8) = i by omega]

/-! ### Surge history -/

theorem surgeAdd_length (t : Time) (l : List Time) : (surgeAdd t l).length ≤ 16 := by
  unfold surgeAdd Config.surgeCap
  split_ifs with h
  · rw [List.length_append, List.length_singleton]; omega
  · rw [List.length_append, List.length_singleton, List.length_drop]; omega

theorem ageSurge_length (t : Time) (l : List Time) : (ageSurge t l).length ≤ l.length := List.length_filter_le _ _

theorem mem_ageSurge (t x : Time) (l : List Time) : x ∈ ageSurge t l ↔ x ∈ l ∧ t ≤ x + surgeTime := by
  simp [ageSurge]

/-! ### Holdings list -/

theorem mem_insertHolding (h x : Holding) (l : List Holding) (hx : x ∈ insertHolding h l) : x = h ∨ x ∈ l := by
  induction l with
  | nil => simpa [insertHolding] using hx
  | cons y ys ih =>
    unfold insertHolding at hx
    split_ifs at hx with h1 h2
    · simpa using hx
    · rcases List.mem_cons.mp hx with rfl | hx
      · exact Or.inl rfl
      · exact Or.inr (List.mem_cons_of_mem _ hx)
    · rcases List.mem_cons.mp hx with rfl | hx
      · exact Or.inr List.mem_cons_self
      · exact (ih hx).imp id (List.mem_cons_of_mem _)

/-- A record joins the list in canonical order (R2). -/
theorem insertHolding_canonical (h : Holding) (l : List Holding) (hl : Canonical l) : Canonical (insertHolding h l) := by
  unfold Canonical at *
  induction l with
  | nil => simp [insertHolding]
  | cons y ys ih =>
    rw [List.pairwise_cons] at hl
    unfold insertHolding
    split_ifs with h1 h2
    · refine List.pairwise_cons.mpr ⟨fun x hx => ?_, List.pairwise_cons.mpr hl⟩
      rcases List.mem_cons.mp hx with rfl | hx
      · exact h1
      · exact Nat.lt_trans h1 (hl.1 x hx)
    · refine List.pairwise_cons.mpr ⟨fun x hx => ?_, hl.2⟩
      rw [h2]; exact hl.1 x hx
    · refine List.pairwise_cons.mpr ⟨fun x hx => ?_, ih hl.2⟩
      rcases mem_insertHolding h x ys hx with rfl | hx
      · omega
      · exact hl.1 x hx

theorem insertHolding_length (h : Holding) (l : List Holding) : (insertHolding h l).length ≤ l.length + 1 := by
  induction l with
  | nil => simp [insertHolding]
  | cons y ys ih =>
    unfold insertHolding
    split_ifs
    · simp
    · simp
    · simp only [List.length_cons]; omega

/-- A record whose key is in the list already takes the place of the old one. -/
theorem insertHolding_replaces (h : Holding) (l : List Holding) (hl : Canonical l) (hk : ∃ x ∈ l, x.key = h.key) :
    (insertHolding h l).length = l.length := by
  unfold Canonical at hl
  induction l with
  | nil => simp at hk
  | cons y ys ih =>
    rw [List.pairwise_cons] at hl
    obtain ⟨x, hx, hxk⟩ := hk
    unfold insertHolding
    split_ifs with h1 h2
    · exfalso
      rcases List.mem_cons.mp hx with rfl | hx
      · omega
      · have := hl.1 x hx; omega
    · simp
    · rcases List.mem_cons.mp hx with rfl | hx
      · exact absurd hxk.symm h2
      · simp only [List.length_cons, ih hl.2 ⟨x, hx, hxk⟩]

theorem filter_canonical (p : Holding → Bool) (l : List Holding) (h : Canonical l) : Canonical (l.filter p) :=
  List.Pairwise.filter p h

theorem map_canonical (f : Holding → Holding) (l : List Holding) (hf : ∀ x, (f x).key = x.key) (h : Canonical l) :
    Canonical (l.map f) := by
  unfold Canonical at *
  rw [List.pairwise_map]
  exact h.imp (fun hxy => by rw [hf, hf]; exact hxy)

theorem mapHolding_canonical (s : Station) (k : Byte) (f : Holding → Holding) (l : List Holding)
    (hf : ∀ x, (f x).key = x.key) (h : Canonical l) : Canonical (mapHolding s k f l) := by
  refine map_canonical _ _ (fun x => ?_) h
  split_ifs
  · exact hf x
  · rfl

/-- The key of a record names its station and its handle. -/
theorem key_inj (x : Holding) (s : Station) (k : Byte) (h : x.station = s ∧ x.handle = k) :
    x.key = s.toNat * 256 + k.toNat := by
  rw [← h.1, ← h.2]; rfl

/-- A record found under a key stands in the list and has that key. -/
theorem findHolding_some {s : Station} {k : Byte} {l : List Holding} {x : Holding} (h : findHolding s k l = some x) :
    x ∈ l ∧ x.station = s ∧ x.handle = k := by
  unfold findHolding at h
  refine ⟨List.mem_of_find?_eq_some h, ?_⟩
  simpa using List.find?_some h

/-- How many own records an insertion leaves: at most one more, and no more than before for a peer's. -/
theorem insertHolding_own (h : Holding) (l : List Holding) :
    (insertHolding h l).countP Holding.isOwn ≤ l.countP Holding.isOwn + (if h.isOwn then 1 else 0) := by
  induction l with
  | nil => rw [insertHolding, List.countP_cons]
  | cons y ys ih =>
    unfold insertHolding
    split_ifs with h1 h2 h3 h3 <;> simp only [List.countP_cons] at ih ⊢ <;> split_ifs at ih ⊢ <;> omega

theorem ownHoldings_length (d : Dev) : d.ownHoldings.length = d.ht.holdings.countP Holding.isOwn :=
  List.countP_eq_length_filter.symm

/-! ### Calibration queue -/

theorem calDrop_nodup (s : Station) (q : List (Station × Word16)) (h : (q.map Prod.fst).Nodup) :
    ((calDrop s q).map Prod.fst).Nodup :=
  List.Sublist.nodup (List.Sublist.map _ List.filter_sublist) h

theorem not_mem_calDrop (s : Station) (q : List (Station × Word16)) : s ∉ (calDrop s q).map Prod.fst := by
  simp [calDrop]

theorem calEnqueue_nodup (s : Station) (t : Word16) (q : List (Station × Word16)) (h : (q.map Prod.fst).Nodup) :
    ((calEnqueue s t q).map Prod.fst).Nodup := by
  unfold calEnqueue
  split_ifs with hs
  · exact h
  · rw [List.map_append, List.nodup_append]
    refine ⟨h, by simp, fun a ha b hb => ?_⟩
    simp only [List.map_cons, List.map_nil, List.mem_singleton] at hb
    rintro rfl
    subst hb
    obtain ⟨e, he, rfl⟩ := List.mem_map.mp ha
    exact hs (List.any_eq_true.mpr ⟨e, he, by simp⟩)

theorem calRequeue_nodup (s : Station) (t : Word16) (q : List (Station × Word16)) (h : (q.map Prod.fst).Nodup) :
    ((calRequeue s t q).map Prod.fst).Nodup := by
  unfold calRequeue
  rw [List.map_append, List.nodup_append]
  refine ⟨calDrop_nodup s q h, by simp, fun a ha b hb => ?_⟩
  simp only [List.map_cons, List.map_nil, List.mem_singleton] at hb
  rintro rfl
  subst hb
  exact not_mem_calDrop _ _ ha

theorem calInsert_perm (next : Word16) (s : Station) (t : Word16) (q : List (Station × Word16)) :
    (calInsert next s t q).Perm ((s, t) :: q) := by
  induction q with
  | nil => exact List.Perm.refl _
  | cons e q ih =>
    unfold calInsert
    split_ifs
    · exact List.Perm.refl _
    · exact (ih.cons e).trans (List.Perm.swap _ _ _)

theorem calPlace_nodup (next : Word16) (s : Station) (t : Word16) (q : List (Station × Word16))
    (h : (q.map Prod.fst).Nodup) : ((calPlace next s t q).map Prod.fst).Nodup := by
  unfold calPlace
  rw [((calInsert_perm next s t _).map Prod.fst).nodup_iff, List.map_cons, List.nodup_cons]
  exact ⟨not_mem_calDrop s q, calDrop_nodup s q h⟩

theorem applyIntent_nodup (t : Ht) (s : Station) (a : IntentAction) (k : Word16) (h : (t.calQueue.map Prod.fst).Nodup) :
    ((t.applyIntent s a k).calQueue.map Prod.fst).Nodup := by
  cases a
  · exact calEnqueue_nodup s k _ h
  · exact calDrop_nodup s _ h
  · exact calRequeue_nodup s k _ h

/-! ### Local queue -/

theorem flagFirst_tags (p : Entry → Bool) (l : List Entry) : (flagFirst p l).map Entry.tag = l.map Entry.tag := by
  induction l with
  | nil => rfl
  | cons e es ih =>
    unfold flagFirst
    split_ifs
    · rfl
    · simp only [List.map_cons, ih]

end Sys2Proof.Laws
end

