-- ==== Sys2Proof/Laws/PerInstr.lean ====
section
/-! SUPPORT. What well-formedness asks of each command, one lemma per constructor. -/

namespace Sys2Proof.Laws.WellFormed

/-- A row that names a check asks that check of its operands; every other row asks nothing. -/
def Statement : Instr → Prop
  | .frameRejected dt raw => (Instr.frameRejected dt raw).wf = true ↔ raw.read = none
  | .claimReceived dt hd h c u t => (Instr.claimReceived dt hd h c u t).wf = true ↔ claimCostOk c u = true
  | .urgentClaimReceived dt hd h c u t => (Instr.urgentClaimReceived dt hd h c u t).wf = true ↔ claimCostOk c u = true
  | .putMalformed dt bytes => (Instr.putMalformed dt bytes).wf = true ↔ Request.ofPut bytes = none
  | .transferCodeInvalid dt code =>
    (Instr.transferCodeInvalid dt code).wf = true ↔
      code ≠ some 0xE1#8 ∧ code ≠ some 0xE2#8 ∧ code ≠ some 0xE3#8
  | i => i.wf = true

theorem powerOnReset : Statement Instr.powerOnReset := rfl
theorem lineReset : Statement Instr.lineReset := rfl
theorem resetRelease : ∀ dt sid pins, Statement (Instr.resetRelease dt sid pins) := fun _ _ _ => rfl
theorem busFree : ∀ dt, Statement (Instr.busFree dt) := fun _ => rfl
theorem arbitrationLoss : ∀ dt, Statement (Instr.arbitrationLoss dt) := fun _ => rfl
theorem bitError : ∀ dt, Statement (Instr.bitError dt) := fun _ => rfl
theorem sendComplete : ∀ dt acks, Statement (Instr.sendComplete dt acks) := fun _ _ => rfl
theorem frameRejected : ∀ dt raw, Statement (Instr.frameRejected dt raw) := fun _ _ => Option.isNone_iff_eq_none
theorem claimReceived : ∀ dt head handle cls units target, Statement (Instr.claimReceived dt head handle cls units target) := fun _ _ _ _ _ _ => Iff.rfl
theorem urgentClaimReceived : ∀ dt head handle cls units target, Statement (Instr.urgentClaimReceived dt head handle cls units target) := fun _ _ _ _ _ _ => Iff.rfl
theorem releaseReceived : ∀ dt head handle outcome, Statement (Instr.releaseReceived dt head handle outcome) := fun _ _ _ _ => rfl
theorem extendReceived : ∀ dt head handle number, Statement (Instr.extendReceived dt head handle number) := fun _ _ _ _ => rfl
theorem pleaReceived : ∀ dt head, Statement (Instr.pleaReceived dt head) := fun _ _ => rfl
theorem clearReceived : ∀ dt head, Statement (Instr.clearReceived dt head) := fun _ _ => rfl
theorem intentEnqueueReceived : ∀ dt head ticket, Statement (Instr.intentEnqueueReceived dt head ticket) := fun _ _ _ => rfl
theorem intentRequeueReceived : ∀ dt head ticket, Statement (Instr.intentRequeueReceived dt head ticket) := fun _ _ _ => rfl
theorem intentWithdrawReceived : ∀ dt head ticket, Statement (Instr.intentWithdrawReceived dt head ticket) := fun _ _ _ => rfl
theorem holdingReceived : ∀ dt head handle cls units target extensions remaining, Statement (Instr.holdingReceived dt head handle cls units target extensions remaining) := fun _ _ _ _ _ _ _ _ => rfl
theorem summaryReceived : ∀ dt head flags ticket next, Statement (Instr.summaryReceived dt head flags ticket next) := fun _ _ _ _ _ => rfl
theorem resyncReceived : ∀ dt head, Statement (Instr.resyncReceived dt head) := fun _ _ => rfl
theorem beaconReceived : ∀ dt head digest flags, Statement (Instr.beaconReceived dt head digest flags) := fun _ _ _ _ => rfl
theorem joinReceived : ∀ dt head budget version, Statement (Instr.joinReceived dt head budget version) := fun _ _ _ _ => rfl
theorem leaveReceived : ∀ dt head, Statement (Instr.leaveReceived dt head) := fun _ _ => rfl
theorem listenTimerExpiry : Statement Instr.listenTimerExpiry := rfl
theorem collectTimerExpiry : Statement Instr.collectTimerExpiry := rfl
theorem beaconTimerExpiry : Statement Instr.beaconTimerExpiry := rfl
theorem silence : ∀ station, Statement (Instr.silence station) := fun _ => rfl
theorem peerExpiry : ∀ station handle, Statement (Instr.peerExpiry station handle) := fun _ _ => rfl
theorem surgeEntryAgeing : Statement Instr.surgeEntryAgeing := rfl
theorem leaseTimerExpiry : ∀ handle, Statement (Instr.leaseTimerExpiry handle) := fun _ => rfl
theorem accrualTimerExpiry : ∀ region, Statement (Instr.accrualTimerExpiry region) := fun _ => rfl
theorem headTimerExpiry : Statement Instr.headTimerExpiry := rfl
theorem selectionTimerExpiry : Statement Instr.selectionTimerExpiry := rfl
theorem deadlinePasses : ∀ tag, Statement (Instr.deadlinePasses tag) := fun _ => rfl
theorem ownHoldingsDrained : Statement Instr.ownHoldingsDrained := rfl
theorem linkFaultRecovery : Statement Instr.linkFaultRecovery := rfl
theorem setup : ∀ dt modes start stop, Statement (Instr.setup dt modes start stop) := fun _ _ _ _ => rfl
theorem submit : ∀ dt tag cls region notAfter, Statement (Instr.submit dt tag cls region notAfter) := fun _ _ _ _ _ => rfl
theorem cancel : ∀ dt tag, Statement (Instr.cancel dt tag) := fun _ _ => rfl
theorem done : ∀ dt handle outcome, Statement (Instr.done dt handle outcome) := fun _ _ _ => rfl
theorem rate : ∀ dt grade, Statement (Instr.rate dt grade) := fun _ _ => rfl
theorem hold : ∀ dt, Statement (Instr.hold dt) := fun _ => rfl
theorem resume : ∀ dt, Statement (Instr.resume dt) := fun _ => rfl
theorem queryStation : ∀ dt part, Statement (Instr.queryStation dt part) := fun _ _ => rfl
theorem queryRegions : ∀ dt part, Statement (Instr.queryRegions dt part) := fun _ _ => rfl
theorem queryTable : ∀ dt part, Statement (Instr.queryTable dt part) := fun _ _ => rfl
theorem queryRoster : ∀ dt part, Statement (Instr.queryRoster dt part) := fun _ _ => rfl
theorem queryQueue : ∀ dt part, Statement (Instr.queryQueue dt part) := fun _ _ => rfl
theorem queryCounters : ∀ dt part, Statement (Instr.queryCounters dt part) := fun _ _ => rfl
theorem leaveRequest : ∀ dt, Statement (Instr.leaveRequest dt) := fun _ => rfl
theorem rejoin : ∀ dt, Statement (Instr.rejoin dt) := fun _ => rfl
theorem putMalformed : ∀ dt bytes, Statement (Instr.putMalformed dt bytes) := fun _ _ => Option.isNone_iff_eq_none
theorem transferCodeInvalid : ∀ dt code, Statement (Instr.transferCodeInvalid dt code) := fun _ _ => by simp [Statement, Instr.wf, and_assoc]
theorem take : ∀ dt clocked, Statement (Instr.take dt clocked) := fun _ _ => rfl
theorem peek : ∀ dt clocked, Statement (Instr.peek dt clocked) := fun _ _ => rfl
theorem frameBearingOwnNumber : ∀ dt, Statement (Instr.frameBearingOwnNumber dt) := fun _ => rfl

end Sys2Proof.Laws.WellFormed
end

