-- ==== Sys2Proof/Laws/Port.lean ====
section
/-! SUPPORT. What every operation does to the notice queue and the reserved GO place: each keeps the bound of R178 and
the reservation of R59. -/

namespace Sys2Proof.Laws

open Sys2Proof.Machine

variable {d : Dev}

/-- The bound holds of every part that agrees in the notices, the TAKE under way, the reservation and the frame in
hand. -/
theorem port_of_same {e : Dev} (h : d.PortSound) (h1 : e.pu.notices = d.pu.notices)
    (h2 : e.pu.goReserved = d.pu.goReserved) (h3 : e.biu.inHand = d.biu.inHand)
    (h4 : e.pu.takeLeft = d.pu.takeLeft) : e.PortSound := by
  unfold Dev.PortSound Biu.claimSending at *
  rw [h1, h2, h3, h4]; exact h

/-- The bound on the notices alone, and the notice that a TAKE has read (R172, R178). -/
def PuBound (p : Pu) : Prop :=
  p.notices.length ≤ 16 ∧ (p.goReserved = true → p.notices.length ≤ 15) ∧ (p.takeLeft ≠ 0 → p.notices ≠ [])

/-- Judging a notice keeps the bound. -/
theorem judge_bound (p : Pu) (n : Notice) (h : PuBound p) : PuBound (p.judge n) := by
  obtain ⟨h1, h2, h3⟩ := h
  unfold PuBound Pu.judge Config.noticeCap
  cases hr : p.goReserved <;> split_ifs with hl <;> simp [hr] at h2 hl ⊢ <;>
    first
      | omega
      | exact ⟨h1, h3⟩
      | exact ⟨h1, h2, h3⟩

/-- The end of a TAKE keeps the bound. -/
theorem endTake_bound (p : Pu) (h : PuBound p) : PuBound p.endTake := by
  obtain ⟨h1, h2, _⟩ := h
  refine ⟨?_, fun k => ?_, fun k => absurd rfl k⟩
  · rw [endTake_notices, List.length_tail]; omega
  · have := h2 k; rw [endTake_notices, List.length_tail]; omega

/-- Counting a judged notice for a TAKE keeps the bound. -/
theorem countTake_bound (p : Pu) (h : PuBound p) : PuBound p.countTake := by
  unfold Pu.countTake; split_ifs
  · exact endTake_bound p h
  · exact ⟨h.1, h.2.1, fun k => h.2.2 (fun e => k (by dsimp only; rw [e]))⟩

/-- What a notice that joins or is dropped leaves of the bound. -/
theorem push_bound (p : Pu) (n : Notice) (h : PuBound p) : PuBound (p.push n) := countTake_bound _ (judge_bound p n h)

theorem notify_port (n : Notice) (h : d.PortSound) : (d.notify n).PortSound := by
  have hp := push_bound d.pu n ⟨h.1, h.2.1, h.2.2.2⟩
  exact ⟨hp.1, hp.2.1, fun k => (by simpa using h.2.2.1 k), hp.2.2⟩

theorem enter_port (p : Presence) (h : d.PortSound) : (d.enter p).PortSound := notify_port _ h

theorem refuse_port (q : ReqType) (k : Option Byte) (r : Reason) (h : d.PortSound) : (d.refuse q k r).PortSound :=
  notify_port _ h

theorem clearClaimSlot_port (h : d.PortSound) (hc : d.biu.claimSending = false) : d.clearClaimSlot.PortSound :=
  ⟨h.1, fun k => (by simp at k), fun k => (by
    rw [show d.clearClaimSlot.biu.claimSending = false from hc] at k; cases k), h.2.2.2⟩

/-! ### The selector -/

theorem removeEntry_port (t : Byte) (h : d.PortSound) : (d.removeEntry t).PortSound := by
  unfold Dev.removeEntry; split
  · exact h
  · dsimp only; split_ifs <;> exact h

theorem endEntry_port (t : Byte) (n : Notice) (h : d.PortSound) : (d.endEntry t n).PortSound :=
  notify_port _ (removeEntry_port t h)

theorem returnOrigin_port (c : Claim) (h : d.PortSound) : (d.returnOrigin c).PortSound := by
  unfold Dev.returnOrigin; split <;> exact h

theorem unstage_port (c : Claim) (h : d.PortSound) (hc : d.biu.claimSending = false) : (d.unstage c).PortSound :=
  returnOrigin_port c (clearClaimSlot_port h hc)

/-- While a claim waits, none is on its way. -/
theorem staged_idle {c : Claim} (h : d.biu.stagedClaim = some c) : d.biu.claimSending = false := by
  unfold Biu.stagedClaim Biu.inHandIs at h
  unfold Biu.claimSending
  split at h
  · split_ifs at h with h'
    simp only [Bool.not_eq_true] at h'
    simp [h']
  · rfl

theorem unstageWaiting_port (h : d.PortSound) : d.unstageWaiting.PortSound := by
  unfold Dev.unstageWaiting; split
  · rename_i hc; exact unstage_port _ h (staged_idle hc)
  · exact h

theorem endClaim_port (c : Claim) (h : d.PortSound) (hc : d.biu.claimSending = false) : (d.endClaim c).PortSound := by
  unfold Dev.endClaim; split
  · split_ifs
    · exact endEntry_port _ _ (clearClaimSlot_port h hc)
    · exact endEntry_port _ _ (clearClaimSlot_port h hc)
    · exact unstage_port _ h hc
  · exact unstage_port _ h hc

theorem claimBack_port (h : d.PortSound) (hc : d.biu.claimSending = false) : d.claimBack.PortSound := by
  unfold Dev.claimBack; split
  · split_ifs
    · exact endClaim_port _ h hc
    · exact h
  · exact h

theorem close_port (b : Dev) (h : d.PortSound) : (Dev.close b d).PortSound :=
  port_of_same h (by simp) (by simp) (by simp) (by simp)

/-! ### The presence controller -/

theorem placePleaFor_port (u : Urgency) (h : d.PortSound) : (d.placePleaFor u).PortSound := by
  unfold Dev.placePleaFor; split
  · exact h
  · split <;> exact h
  · split <;> exact h

/-- With no claim in hand none is on its way. -/
theorem notInHand_idle (h : d.biu.inHandIs .claim = false) : d.biu.claimSending = false := by
  unfold Biu.inHandIs at h; unfold Biu.claimSending
  split at h
  · simp [h]
  · rfl

theorem callBack_port (h : d.PortSound) : d.callBack.PortSound := by
  unfold Dev.callBack; split
  · exact h
  · split_ifs with h1
    · exact h
    · exact unstage_port _ h (notInHand_idle (by simpa using h1))

theorem urgentUnstage_port (h : d.PortSound) : d.urgentUnstage.PortSound := by
  unfold Dev.urgentUnstage; split
  · exact h
  · split_ifs
    · exact h
    · exact callBack_port h

theorem evalUrgency_port (h : d.PortSound) : d.evalUrgency.PortSound := by
  have hp : ∀ u, (Dev.placePleaFor u { d with rs.urgency := u }).prompt.PortSound := fun u =>
    placePleaFor_port u (d := { d with rs.urgency := u }) h
  unfold Dev.evalUrgency; dsimp only
  split_ifs
  · exact h
  · exact urgentUnstage_port (hp _)
  · exact hp _

theorem answerIfDue_port (h : d.PortSound) : d.answerIfDue.PortSound := by
  unfold Dev.answerIfDue; split_ifs
  · refine port_of_same h rfl rfl ?_ rfl
    show (Biu.placeAnswer _ _).inHand = _
    unfold Biu.placeAnswer; split_ifs <;> rfl
  · exact h

theorem enterListening_port (h : d.PortSound) : d.enterListening.PortSound := notify_port _ h

theorem giveReady_port (h : d.PortSound) : d.giveReady.PortSound := by
  unfold Dev.giveReady; split_ifs
  · exact h
  · exact notify_port _ h

theorem startBeacons_port (h : d.PortSound) : d.startBeacons.PortSound := by
  unfold Dev.startBeacons; split_ifs <;> exact h

theorem markPlea_port (h : d.PortSound) : d.markPlea.PortSound := by
  unfold Dev.markPlea; split <;> exact h

theorem enterMember_port (h : d.PortSound) : d.enterMember.PortSound := by
  have h1 : (Dev.enter .member { d with pc.syncCause := none, pc.window := none, pu.setupLock := true }).PortSound :=
    notify_port _ h
  unfold Dev.enterMember; dsimp only
  split_ifs
  · exact startBeacons_port (d := Dev.clearMismatches _) (giveReady_port h1)
  · exact markPlea_port (startBeacons_port (d := Dev.clearMismatches _) (giveReady_port h1))

theorem checkAnswers_port (h : d.PortSound) : d.checkAnswers.PortSound := by
  unfold Dev.checkAnswers; split
  · split_ifs
    · exact enterMember_port h
    · exact h
  · exact h

theorem startResync_port (h : d.PortSound) : d.startResync.PortSound := by
  have := notify_port (d := { d.clearMismatches with pc.syncCause := some .resync, pc.presence := .syncing })
    (.state .syncing) h
  exact port_of_same this rfl rfl rfl rfl

theorem contest_port (s : Station) (h : d.PortSound) : (d.contest s).PortSound := by
  have h1 : (if s = d.pc.station then ({ d with ht.contests := inc16 d.ht.contests } : Dev)
      else Dev.modRoster s (fun r => { r with contests := inc16 r.contests })
        { d with ht.contests := inc16 d.ht.contests }).PortSound := by split_ifs <;> exact h
  have h2 : ∀ e : Dev, e.PortSound → (if e.pc.presence = .member then e.startResync else e).PortSound := by
    intro e he; split_ifs
    · exact startResync_port he
    · exact he
  exact h2 _ (notify_port _ h1)

theorem notifyCancelling_port (h : d.PortSound) : d.notifyCancelling.PortSound := by
  unfold Dev.notifyCancelling
  generalize d.ownHoldings = l
  induction l generalizing d with
  | nil => exact h
  | cons x xs ih =>
    rw [List.foldl_cons]
    apply ih
    split
    · split
      · exact notify_port _ h
      · exact h
    · exact h

@[simp] theorem notifyCancelling_inHand (d : Dev) : d.notifyCancelling.biu = d.biu := by
  unfold Dev.notifyCancelling
  generalize d.ownHoldings = l
  induction l generalizing d with
  | nil => rfl
  | cons x xs ih =>
    rw [List.foldl_cons, ih]
    split
    · split <;> rfl
    · rfl

theorem clearReplica_port (h : d.PortSound) : d.clearReplica.PortSound :=
  port_of_same (notifyCancelling_port h) rfl rfl rfl rfl

/-! ### The outbox emptied -/

/-- The bound on the notices alone (R172, R178). -/
def Bound (d : Dev) : Prop := PuBound d.pu

theorem notify_bound (n : Notice) (h : Bound d) : Bound (d.notify n) := push_bound d.pu n h

theorem clearClaimSlot_bound (h : Bound d) : Bound d.clearClaimSlot := ⟨h.1, fun k => (by simp at k), h.2.2⟩

theorem removeEntry_bound (t : Byte) (h : Bound d) : Bound (d.removeEntry t) := by
  unfold Dev.removeEntry; split
  · exact h
  · dsimp only; split_ifs <;> exact h

theorem unstage_bound (c : Claim) (h : Bound d) : Bound (d.unstage c) := by
  unfold Dev.unstage Dev.returnOrigin; split <;> exact clearClaimSlot_bound h

theorem endClaim_bound (c : Claim) (h : Bound d) : Bound (d.endClaim c) := by
  unfold Dev.endClaim; split
  · split_ifs
    · exact notify_bound _ (removeEntry_bound _ (clearClaimSlot_bound h))
    · exact notify_bound _ (removeEntry_bound _ (clearClaimSlot_bound h))
    · exact unstage_bound _ h
  · exact unstage_bound _ h

theorem emptyClaim_bound (h : Bound d) : Bound d.emptyClaim := by
  unfold Dev.emptyClaim; split
  · exact h
  · exact unstage_bound _ h
  · split_ifs
    · exact h
    · exact clearClaimSlot_bound h
    · exact endClaim_bound _ h
    · exact unstage_bound _ h

@[simp] theorem removeEntry_inHand (t : Byte) (d : Dev) : (d.removeEntry t).biu.inHand = d.biu.inHand := by
  unfold Dev.removeEntry; split
  · rfl
  · dsimp only; split_ifs <;> rfl

@[simp] theorem unstage_inHand (c : Claim) (d : Dev) : (d.unstage c).biu.inHand = d.biu.inHand := by
  unfold Dev.unstage Dev.returnOrigin; split <;> rfl

@[simp] theorem endClaim_inHand (c : Claim) (d : Dev) : (d.endClaim c).biu.inHand = d.biu.inHand := by
  unfold Dev.endClaim; split
  · split_ifs
    · simp [Dev.endEntry]
    · simp [Dev.endEntry]
    · simp
  · simp

@[simp] theorem emptyClaim_inHand (d : Dev) : d.emptyClaim.biu.inHand = d.biu.inHand := by
  unfold Dev.emptyClaim; split
  · rfl
  · simp
  · split_ifs <;> simp

/-- While its attempt is under way a claim is not touched as the outbox is emptied. -/
theorem emptyClaim_sending {f : InHand} (h : d.biu.inHand = some f) (hr : f.ref = .claim) (hs : f.sending = true) :
    d.emptyClaim = d := by
  unfold Dev.emptyClaim
  rw [h]
  split
  · rfl
  · contradiction
  · rename_i hf; cases hf; rw [if_pos hr, if_pos hs]

theorem emptyOutbox_port (h : d.PortSound) : d.emptyOutbox.PortSound := by
  have hb := emptyClaim_bound (d := d) ⟨h.1, h.2.1, h.2.2.2⟩
  unfold Dev.emptyOutbox; dsimp only
  rw [emptyClaim_inHand]
  split
  · rename_i f hf
    split_ifs with hs
    · refine ⟨hb.1, hb.2.1, fun k => ?_, hb.2.2⟩
      have k' : d.biu.claimSending = true := by
        unfold Biu.claimSending at k ⊢
        simp only at k
        exact k
      have hr : f.ref = .claim := by
        unfold Biu.claimSending at k'
        rw [hf] at k'
        simp at k'
        exact k'.1
      show d.emptyClaim.pu.goReserved = true
      rw [emptyClaim_sending hf hr hs]; exact h.2.2.1 k'
    · exact ⟨hb.1, hb.2.1, fun k => (by cases k), hb.2.2⟩
  · rename_i hf
    refine ⟨hb.1, hb.2.1, fun k => ?_, hb.2.2⟩
    unfold Biu.claimSending at k
    simp only [hf] at k
    cases k

/-! ### The two faults -/

theorem recover_port (h : d.PortSound) : d.recover.PortSound :=
  enterListening_port (d := { d.emptyOutbox.clearReplica with
    pc.roster := d.emptyOutbox.clearReplica.pc.roster.map RosterRec.cleared, biu.losses := 0, biu.consecErrors := 0 })
    (clearReplica_port (emptyOutbox_port h))

theorem linkFault_port (c : LinkCause) (h : d.PortSound) : (d.linkFault c).PortSound := by
  unfold Dev.linkFault; dsimp only
  split_ifs
  · exact recover_port (unstageWaiting_port (notify_port _ (notify_port _ h)))
  · exact unstageWaiting_port (notify_port _ (notify_port _ h))
  · exact h

theorem configFault_port (c : CfgCause) (h : d.PortSound) : (d.configFault c).PortSound :=
  emptyOutbox_port (notify_port _ (notify_port _ h))

/-! ### Own frames on the line -/

@[simp] theorem retest_inHand (d : Dev) : d.retest.biu.inHand = d.biu.inHand := by
  unfold Dev.retest; split
  · rfl
  · split_ifs <;> simp

@[simp] theorem unstage_pc (c : Claim) (d : Dev) : (d.unstage c).pc = d.pc := by
  unfold Dev.unstage Dev.returnOrigin; split <;> rfl

@[simp] theorem retest_pc (d : Dev) : d.retest.pc = d.pc := by
  unfold Dev.retest; split
  · rfl
  · split_ifs <;> simp

theorem retest_port (h : d.PortSound) : d.retest.PortSound := by
  unfold Dev.retest; split
  · exact h
  · rename_i hc
    split_ifs
    · exact h
    · exact unstage_port _ h (staged_idle hc)
    · exact h

theorem startAttempt_port (o : Offer) (h : d.PortSound) (ho : o.ref = .claim → d.pu.notices.length ≤ 15) :
    (d.startAttempt o).PortSound := by
  refine ⟨h.1, fun k => ?_, fun k => ?_, h.2.2.2⟩
  · simp only [Dev.startAttempt, driveFrame_pu, Bool.or_eq_true, beq_iff_eq] at k
    exact k.elim h.2.1 ho
  · simp only [Dev.startAttempt, driveFrame_biu, Biu.claimSending, Bool.and_eq_true, beq_iff_eq] at k
    simp [Dev.startAttempt, k.1]

theorem startRepeat_port (f : InHand) (h : d.PortSound) (hf : d.biu.inHand = some f) : (d.startRepeat f).PortSound := by
  refine ⟨h.1, h.2.1, fun k => h.2.2.1 ?_, h.2.2.2⟩
  simpa [Dev.startRepeat, Biu.claimSending, hf] using k

/-- A waiting claim that has passed its test leaves room for GO. -/
theorem retest_room (h : d.biu.inHand = none) (hp : d.pc.presence = .member) {c : Claim}
    (hc : d.retest.biu.outbox.claim = some c) : d.retest.pu.notices.length ≤ 15 := by
  have hs : d.biu.stagedClaim = d.biu.outbox.claim := by simp [Biu.stagedClaim, Biu.inHandIs, h]
  unfold Dev.retest at hc ⊢
  rw [hs] at hc ⊢
  split at hc
  · rename_i hn; rw [hn] at hc; cases hc
  · rename_i x hx
    rw [if_pos hp] at hc
    split_ifs at hc with hpass
    · rw [if_pos hp, if_pos hpass]
      have h7 : d.a7 = true := by
        by_contra h7
        simp only [Dev.stagedPasses, Bool.and_eq_true, Option.isNone_iff_eq_none, Dev.firstFail] at hpass
        have := hpass.1
        simp only [Bool.not_eq_true] at h7
        simp [h7] at this
        split_ifs at this
      have h7 : d.pu.notices.length + 4 ≤ 16 := of_decide_eq_true h7
      show d.pu.notices.length ≤ 15
      omega
    · simp [Dev.unstage, Dev.returnOrigin] at hc
      split at hc <;> simp at hc

theorem busFree_port (h : d.PortSound) : d.busFree.PortSound := by
  have hr : (Dev.retest { d with biu.busFree := true, biu.line := .silent }).PortSound := retest_port (d := { d with biu.busFree := true, biu.line := .silent }) h
  unfold Dev.busFree; dsimp only
  split
  · rename_i f hf
    split_ifs
    · exact startRepeat_port f hr hf
    · exact hr
  · rename_i hn
    split_ifs
    · split
      · rename_i o ho
        refine startAttempt_port o hr (fun hc => ?_)
        obtain ⟨hp, c, hx, -⟩ := (firstOffer_fits ho).2 hc
        refine retest_room ?_ ?_ hx
        · simpa using hn
        · simpa using hp
      · exact hr
    · exact hr

theorem leaveSlot_port (f : InHand) (h : d.PortSound) : (d.leaveSlot f).PortSound := by
  have hn : ({ d with biu.inHand := none } : Dev).PortSound := ⟨h.1, h.2.1, fun k => (by cases k), h.2.2.2⟩
  unfold Dev.leaveSlot; dsimp only
  split_ifs
  · exact clearClaimSlot_port hn rfl
  · split
    · exact endClaim_port _ hn rfl
    · exact hn
  · exact hn

theorem attemptFailed_port (h : d.PortSound) : d.attemptFailed.PortSound := by
  have hn : ({ d with biu.inHand := none } : Dev).PortSound := ⟨h.1, h.2.1, fun k => (by cases k), h.2.2.2⟩
  unfold Dev.attemptFailed; split
  · exact h
  · rename_i f hf
    dsimp only
    split_ifs
    · exact leaveSlot_port f h
    · exact claimBack_port hn rfl
    · exact hn
    · refine ⟨h.1, h.2.1, fun k => h.2.2.1 ?_, h.2.2.2⟩
      simpa [Biu.claimSending, hf] using k

theorem arbitrationLost_port (h : d.PortSound) : d.arbitrationLost.PortSound := attemptFailed_port (d := { d with
  biu.losses := satInc Config.lossMax d.biu.losses, biu.line := .silent }) h

theorem bitError_port (h : d.PortSound) : d.bitError.PortSound := by
  have hf : ∀ n t l, (Dev.attemptFailed { d with biu.consecErrors := n, biu.totalErrors := t, biu.line := l }).PortSound :=
    fun n t l => attemptFailed_port (d := { d with biu.consecErrors := n, biu.totalErrors := t, biu.line := l }) h
  unfold Dev.bitError; dsimp only
  split_ifs
  · exact linkFault_port _ (hf _ _ _)
  · exact hf _ _ _

/-! ### Own frames delivered -/

theorem addOwnRecord_port (c : Claim) (b : Bool) (h : d.PortSound) : (d.addOwnRecord c b).PortSound := by
  have hw : ∀ e : Dev, e.PortSound →
      (if c.cls = .cal then { e with ht.headTimer := none, biu := e.biu.withdrawRequeue } else e).PortSound := by
    intro e he; split_ifs
    · refine port_of_same he rfl rfl ?_ rfl
      show (Biu.withdrawRequeue _).inHand = _
      unfold Biu.withdrawRequeue; split_ifs
      · rfl
      · split
        · split_ifs <;> rfl
        · rfl
    · exact he
  have hc : ∀ (e : Dev) (x : Bool), e.PortSound → (if x then e.contest e.pc.station else e).PortSound := by
    intro e x he; split_ifs
    · exact contest_port _ he
    · exact he
  exact hc _ _ (hw _ h)

theorem claimGranted_port (c : Claim) (h : d.PortSound) : (d.claimGranted c).PortSound := by
  unfold Dev.claimGranted; split <;> exact h

/-- A part in which no claim is on its way needs no reservation. -/
theorem port_of_bound (h : Bound d) (hc : d.biu.claimSending = false) : d.PortSound :=
  ⟨h.1, h.2.1, fun k => (by rw [hc] at k; cases k), h.2.2⟩

@[simp] theorem placeRelease_inHand (b : Biu) (h : Byte) (o : RelOutcome) : (b.placeRelease h o).inHand = b.inHand := by
  unfold Biu.placeRelease Biu.withdrawHolding Biu.withdrawExtend; dsimp only; split_ifs <;> rfl

theorem placeRelease_port (x : Byte) (o : RelOutcome) (h : d.PortSound) : (d.placeRelease x o).PortSound :=
  port_of_same h rfl rfl (by simp) rfl

theorem goOrCancel_port (c : Claim) (h : d.PortSound) (hc : d.biu.claimSending = false) : (d.goOrCancel c).PortSound := by
  have hn : ({ d with pu.goReserved := false } : Dev).PortSound :=
    port_of_bound ⟨h.1, fun k => (by cases k), h.2.2.2⟩ hc
  unfold Dev.goOrCancel; split_ifs
  · exact placeRelease_port _ _ hn
  · exact notify_port (d := { d with pu.goReserved := false }) _ hn

@[simp] theorem startResync_inHand (d : Dev) : d.startResync.biu.inHand = d.biu.inHand := rfl

@[simp] theorem contest_inHand (s : Station) (d : Dev) : (d.contest s).biu.inHand = d.biu.inHand := by
  have h1 : (if s = d.pc.station then ({ d with ht.contests := inc16 d.ht.contests } : Dev)
      else Dev.modRoster s (fun r => { r with contests := inc16 r.contests })
        { d with ht.contests := inc16 d.ht.contests }).biu = d.biu := by split_ifs <;> rfl
  have h2 : ∀ e : Dev, (if e.pc.presence = .member then e.startResync else e).biu.inHand = e.biu.inHand := by
    intro e; split_ifs <;> rfl
  exact (h2 _).trans (congrArg Biu.inHand h1)

@[simp] theorem withdrawRequeue_inHand (b : Biu) : b.withdrawRequeue.inHand = b.inHand := by
  unfold Biu.withdrawRequeue; split_ifs
  · rfl
  · split
    · split_ifs <;> rfl
    · rfl

@[simp] theorem addOwnRecord_inHand (c : Claim) (b : Bool) (d : Dev) :
    (d.addOwnRecord c b).biu.inHand = d.biu.inHand := by
  unfold Dev.addOwnRecord; dsimp only; split_ifs <;> simp

@[simp] theorem claimGranted_biu (c : Claim) (d : Dev) : (d.claimGranted c).biu = d.biu := by
  unfold Dev.claimGranted; split <;> rfl

theorem ownClaimDelivered_port (b : Bool) (h : d.PortSound) (hc : d.biu.claimSending = false) :
    (d.ownClaimDelivered b).PortSound := by
  unfold Dev.ownClaimDelivered; split
  · rename_i c _
    refine goOrCancel_port c (claimGranted_port c (addOwnRecord_port c b h)) ?_
    unfold Biu.claimSending at hc ⊢
    simpa using hc
  · exact h

theorem ownReleaseDelivered_port (x : Byte) (o : RelOutcome) (h : d.PortSound) :
    (d.ownReleaseDelivered x o).PortSound := by
  unfold Dev.ownReleaseDelivered; split
  · exact h
  · rename_i y _
    have h1 : ∀ (n : Option Byte) (e : Dev), e.PortSound →
        (match o, n with | .cancelled, some t => e.notify (.cancelled t) | _, _ => e).PortSound := by
      intro n e he; split
      · exact notify_port _ he
      · exact he
    have h2 : ∀ (p : Prop) (_ : Decidable p) (e : Dev), e.PortSound →
        (if p then (e.modRegion y.target.region Region.credit).evalUrgency else e).PortSound := by
      intro p _ e he; split_ifs
      · exact evalUrgency_port (d := e.modRegion _ _) he
      · exact he
    exact h2 _ _ _ (h1 _ _ h)

theorem ownIntentDelivered_port (a : IntentAction) (t : Word16) (h : d.PortSound) :
    (d.ownIntentDelivered a t).PortSound := by
  unfold Dev.ownIntentDelivered; dsimp only; split_ifs <;> exact h

theorem ownJoinDelivered_port (h : d.PortSound) : d.ownJoinDelivered.PortSound := by
  unfold Dev.ownJoinDelivered; dsimp only
  split_ifs
  · exact enterMember_port h
  · exact notify_port (d := { d with pc.syncCause := some .join, pc.beaconEnds := some (d.now + beaconTime), pc.presence := .syncing }) _ h
  · exact h

theorem ownResyncDelivered_port (h : d.PortSound) : d.ownResyncDelivered.PortSound := by
  unfold Dev.ownResyncDelivered; dsimp only
  split_ifs
  · exact checkAnswers_port (d := Dev.openWindow _) h
  · exact h

theorem ownLeaveDelivered_port (h : d.PortSound) : d.ownLeaveDelivered.PortSound := by
  unfold Dev.ownLeaveDelivered; dsimp only
  split_ifs
  · exact notify_port _ (clearReplica_port h)
  · exact h

/-- A delivery keeps the bound where the frame delivered is a claim only if no claim is on its way any more. -/
theorem deliver_port (f : InHand) (h : d.PortSound) (hc : isClaimFrame f.body = true → d.biu.claimSending = false) :
    (d.deliver f).PortSound := by
  unfold Dev.deliver; split
  · exact ownReleaseDelivered_port _ _ h
  · exact h
  · rename_i hb; exact ownClaimDelivered_port _ h (hc (by rw [hb]; rfl))
  · exact h
  · exact h
  · split
    · exact ownIntentDelivered_port _ _ h
    · exact h
  · exact h
  · exact h
  · exact ownResyncDelivered_port h
  · exact h
  · exact ownJoinDelivered_port h
  · exact ownLeaveDelivered_port h

theorem afterSend_port (h : d.PortSound) : d.afterSend.PortSound := by
  unfold Dev.afterSend; split
  · exact h
  · dsimp only; split_ifs
    · exact leaveSlot_port _ h
    · exact leaveSlot_port _ h
    · exact h
    · exact leaveSlot_port _ h
    · exact linkFault_port _ (leaveSlot_port (d := { d with biu.undelivered := inc16 d.biu.undelivered }) _ h)

theorem sendComplete_port (acks : BitVec 16) (h : d.PortSound) : (d.sendComplete acks).PortSound := by
  unfold Dev.sendComplete; split
  · exact h
  · rename_i f hf
    dsimp only
    apply afterSend_port
    have hn : ∀ b : Bool, (b = false → f.delivered = false) →
        ({ d with biu.losses := 0, biu.consecErrors := 0, biu.line := .silent,
                  biu.inHand := some { f.sent acks d.pc.memberMask with delivered := b } } : Dev).PortSound := by
      intro b hb
      refine ⟨h.1, h.2.1, fun k => h.2.2.1 ?_, h.2.2.2⟩
      simp only [Biu.claimSending, Bool.and_eq_true, beq_iff_eq, Bool.not_eq_true'] at k
      simp only [Biu.claimSending, hf, Bool.and_eq_true, beq_iff_eq, Bool.not_eq_true']
      exact ⟨k.1, hb k.2⟩
    split_ifs with ha
    · refine deliver_port _ (hn _ ?_) (fun _ => ?_)
      · intro hb; simp [ha] at hb
      · simp [Biu.claimSending, ha]
    · refine hn _ (fun hb => ?_)
      simp only [Bool.or_eq_false_iff] at hb
      exact hb.1

/-! ### Frames received -/

theorem modTally_port (s : Station) (f : Tally → Tally) (h : d.PortSound) : (d.modTally s f).PortSound := by
  unfold Dev.modTally; split <;> exact h

theorem dropStation_port (s : Station) (h : d.PortSound) : (d.dropStation s).PortSound := by
  unfold Dev.dropStation; split_ifs <;> exact h

theorem claimApplied_port (s : Station) (u : Bool) (x : Byte) (c : Cls) (t : Target) (h : d.PortSound) :
    (d.claimApplied s u x c t).PortSound := by
  have hc : ∀ (e : Dev) (b : Bool), e.PortSound → (if b then e.contest s else e).PortSound := by
    intro e b he; split_ifs
    · exact contest_port _ he
    · exact he
  have hj : (if d.softContest s u c then d.modRoster s (fun r => { r with softContests := inc16 r.softContests })
      else d).PortSound := by split_ifs <;> exact h
  exact hc _ _ hj

theorem releaseApplied_port (s : Station) (x : Byte) (o : RelOutcome) (h : d.PortSound) :
    (d.releaseApplied s x o).PortSound := by
  unfold Dev.releaseApplied; split
  · exact h
  · dsimp only; split_ifs <;> exact h

theorem extendApplied_port (s : Station) (x n : Byte) (h : d.PortSound) : (d.extendApplied s x n).PortSound := by
  unfold Dev.extendApplied; split
  · exact h
  · split_ifs <;> exact h

theorem tableApply_port (s : Station) (b : Body) (h : d.PortSound) : (d.tableApply s b).PortSound := by
  unfold Dev.tableApply; split
  · split
    · exact claimApplied_port _ _ _ _ _ h
    · exact h
  · exact releaseApplied_port _ _ _ h
  · exact extendApplied_port _ _ _ h
  · exact h
  · exact h
  · split <;> exact h
  all_goals exact h

theorem holdingApplied_port (s : Station) (x c u t e r : Byte) (h : d.PortSound) :
    (d.holdingApplied s x c u t e r).PortSound := by
  have ht : ∀ e : Dev, e.PortSound → (if e.pc.presence = .syncing then e.modTally s Tally.countHolding else e).PortSound := by
    intro e he; split_ifs
    · exact modTally_port _ _ he
    · exact he
  unfold Dev.holdingApplied; split
  · exact h
  · split
    · exact h
    · refine ht _ ?_
      split
      · exact h
      · split_ifs
        · exact h
        · exact contest_port _ h

theorem summaryApplied_port (s : Station) (f : Byte) (t n : Word16) (h : d.PortSound) :
    (d.summaryApplied s f t n).PortSound := by
  unfold Dev.summaryApplied; split_ifs
  all_goals first
    | exact h
    | (refine modTally_port _ _ ?_; split <;> (try split_ifs) <;> exact h)

theorem beaconApplied_port (s : Station) (g : Word16) (f : Byte) (h : d.PortSound) :
    (d.beaconApplied s g f).PortSound := by
  unfold Dev.beaconApplied; dsimp only; split_ifs
  · exact h
  · exact startResync_port (d := d.modRoster _ _) h
  · exact h
  · exact h

theorem presenceApply_port (hd : Head) (b : Body) (h : d.PortSound) : (d.presenceApply hd b).PortSound := by
  unfold Dev.presenceApply; dsimp only; split
  · exact answerIfDue_port (dropStation_port _ (modTally_port (d := d.modRoster _ _) _ _ h))
  · exact dropStation_port _ (modTally_port (d := Dev.modRoster _ _ (Dev.modRoster _ _ d)) _ _ h)
  · exact beaconApplied_port (d := d.modRoster _ _) _ _ _ h
  · exact answerIfDue_port (d := d.modRoster _ _) h
  · exact summaryApplied_port (d := d.modRoster _ _) _ _ _ _ h
  · split_ifs
    · exact holdingApplied_port (d := d.modRoster _ _) _ _ _ _ _ _ _ h
    · exact h
  all_goals exact h

theorem applyFrame_port (hd : Head) (b : Body) (h : d.PortSound) : (d.applyFrame hd b).PortSound := by
  unfold Dev.applyFrame; dsimp only
  split_ifs
  · exact checkAnswers_port (presenceApply_port _ _ (tableApply_port _ _ h))
  · exact checkAnswers_port (presenceApply_port _ _ h)

theorem ownNumber_port (h : d.PortSound) : d.ownNumber.PortSound := by
  unfold Dev.ownNumber; dsimp only; split_ifs
  · exact h
  · exact configFault_port (d := { d with biu.busFree := false, biu.line := .silent }) _ h

theorem receive_port (hd : Head) (b : Body) (h : d.PortSound) : (d.receive hd b).PortSound := by
  unfold Dev.receive; dsimp only; split_ifs
  · exact h
  · exact ownNumber_port (d := { d with biu.busFree := false, biu.line := .silent }) h
  · exact h
  · exact h
  · split
    · exact configFault_port (d := { d with biu.busFree := false, biu.line := .silent }) _ h
    · exact applyFrame_port (d := Dev.driveSlot { d with biu.busFree := false, biu.line := .silent }) _ _ h
  · exact h

theorem rawFrame_port (raw : RawFrame) (h : d.PortSound) : (d.rawFrame raw).PortSound := by
  unfold Dev.rawFrame; split
  · exact h
  · exact receive_port _ _ h

/-! ### Timers, requests and transfers -/

theorem listenEnd_port (h : d.PortSound) : d.listenEnd.PortSound :=
  notify_port (d := { d with pc.listenEnds := none, biu := d.biu.placeJoin .join, pc.presence := .joining }) _ h

theorem fallSilent_port (s : Station) (h : d.PortSound) : (d.fallSilent s).PortSound :=
  checkAnswers_port (dropStation_port _ (modTally_port (d := d.modRoster _ _) _ _ h))

theorem leaseExpire_port (x : Byte) (t : Time) (h : d.PortSound) : (d.leaseExpire x t).PortSound := by
  unfold Dev.leaseExpire; split
  · exact h
  · split
    · exact h
    · split_ifs
      · exact notify_port _ h
      · exact placeRelease_port _ _ (notify_port _ h)

theorem headExpire_port (h : d.PortSound) : d.headExpire.PortSound := by
  unfold Dev.headExpire; dsimp only; split_ifs <;> exact h

theorem accrue_port (r : RegionNo) (t : Time) (h : d.PortSound) : (d.accrue r t).PortSound := by
  have hn : ∀ (e : Dev) (b : Bool) n, e.PortSound → (if b then e.notify n else e).PortSound := by
    intro e b n he; split_ifs
    · exact notify_port _ he
    · exact he
  exact evalUrgency_port (hn _ _ _ h)

/-- A claim that waits is none on its way. -/
theorem entrySending_idle {e : Entry} (h : d.entrySending e = false) (hs : e.staged = true) :
    d.biu.claimSending = false := by
  simpa [Dev.entrySending, hs] using h

theorem dropEntry_port (e : Entry) (n : Notice) (h : d.PortSound) (he : d.entrySending e = false) :
    (d.dropEntry e n).PortSound := by
  unfold Dev.dropEntry; split_ifs with hs
  · exact endEntry_port _ _ (clearClaimSlot_port h (entrySending_idle he hs))
  · exact endEntry_port _ _ h

theorem deadlinePass_port (t : Byte) (h : d.PortSound) : (d.deadlinePass t).PortSound := by
  unfold Dev.deadlinePass; split
  · exact h
  · split_ifs with hs
    · exact h
    · exact dropEntry_port _ _ h (by simpa using hs)

theorem setupRequest_port (m a b : Byte) (h : d.PortSound) : (d.setupRequest m a b).PortSound := by
  unfold Dev.setupRequest; split_ifs
  · exact notify_port _ h
  · exact evalUrgency_port (port_of_same h rfl rfl rfl rfl)
  · exact notify_port _ h

theorem submitRequest_port (t c r : Byte) (n : Word16) (h : d.PortSound) : (d.submitRequest t c r n).PortSound := by
  unfold Dev.submitRequest; split
  · exact notify_port _ h
  · split
    · exact notify_port _ (port_of_same h rfl rfl rfl rfl)
    · exact h

theorem cancelRequest_port (t : Byte) (h : d.PortSound) : (d.cancelRequest t).PortSound := by
  unfold Dev.cancelRequest; split
  · exact notify_port _ h
  · split_ifs with hs
    · unfold Dev.cancelSending; split
      · split_ifs
        · exact notify_port _ h
        · exact h
      · exact notify_port _ h
    · exact dropEntry_port _ _ h (by simpa using hs)

theorem doneRequest_port (x o : Byte) (h : d.PortSound) : (d.doneRequest x o).PortSound := by
  unfold Dev.doneRequest; split
  · exact notify_port _ h
  · split
    · unfold Dev.lateDone; dsimp only; split_ifs <;> exact notify_port _ h
    · split_ifs
      · exact placeRelease_port (d := d.modOwn _ _) _ _ h
      · exact notify_port _ h

theorem holdRequest_port (h : d.PortSound) : d.holdRequest.PortSound := by
  unfold Dev.holdRequest; split_ifs
  · exact notify_port _ h
  · exact callBack_port (port_of_same h rfl rfl rfl rfl)

theorem resumeRequest_port (h : d.PortSound) : d.resumeRequest.PortSound := by
  unfold Dev.resumeRequest; split_ifs
  · have := evalUrgency_port (d := { d with
      rs := { d.rs with hold := false, regions := d.rs.regions.map Region.raise } }) h
    exact port_of_same this rfl rfl rfl rfl
  · exact notify_port _ h

theorem rateRequest_port (g : Byte) (h : d.PortSound) : (d.rateRequest g).PortSound := by
  unfold Dev.rateRequest; split
  · exact h
  · exact notify_port _ h

theorem leaveRequest_port (h : d.PortSound) : d.leaveRequest.PortSound := by
  unfold Dev.leaveRequest; dsimp only; split_ifs
  · exact port_of_same (unstageWaiting_port (enter_port _ h)) rfl rfl rfl rfl
  · exact unstageWaiting_port (enter_port _ h)
  · exact notify_port _ h

theorem rejoinRequest_port (h : d.PortSound) : d.rejoinRequest.PortSound := by
  unfold Dev.rejoinRequest; split_ifs
  · exact enterListening_port (d := { d with pc.readyGiven := false }) h
  · exact notify_port _ h

theorem queryRequest_port (t p : Byte) (h : d.PortSound) : (d.queryRequest t p).PortSound := by
  unfold Dev.queryRequest Dev.built; split_ifs
  · exact notify_port (d := { d with pu.portError := false }) _ h
  · exact notify_port _ h
  · exact notify_port _ h

theorem takeRequest_port (r : Request) (h : d.PortSound) : (d.takeRequest r).PortSound := by
  cases r
  · exact setupRequest_port _ _ _ h
  · exact submitRequest_port _ _ _ _ h
  · exact cancelRequest_port _ h
  · exact doneRequest_port _ _ h
  · exact rateRequest_port _ h
  · exact holdRequest_port h
  · exact resumeRequest_port h
  · exact queryRequest_port _ _ h
  · exact leaveRequest_port h
  · exact rejoinRequest_port h

theorem put_port (bytes : List Byte) (h : d.PortSound) : (d.put bytes).PortSound := by
  unfold Dev.put; split
  · exact takeRequest_port (d := d.quietSdo) _ h
  · exact h

theorem take_port (n : TakeClocks) (h : d.PortSound) : (d.take n).PortSound := by
  unfold Dev.take; split
  · exact h
  · rename_i x rest hx
    have h1 := h.1
    have h2 := h.2.1
    rw [hx, List.length_cons] at h1 h2
    dsimp only; split_ifs
    · exact ⟨(by show rest.length ≤ 16; omega), fun k => (by have := h2 k; show rest.length ≤ 15; omega), h.2.2.1,
        fun k => absurd rfl k⟩
    · exact ⟨h.1, h.2.1, h.2.2.1, fun _ => by show d.pu.notices ≠ []; rw [hx]; exact List.cons_ne_nil _ _⟩
    · exact h

/-- The end of a TAKE frees a place. -/
theorem takeEnds_port (h : d.PortSound) : ({ d with pu := d.pu.endTake } : Dev).PortSound := by
  have hp := endTake_bound d.pu ⟨h.1, h.2.1, h.2.2.2⟩
  exact ⟨hp.1, hp.2.1, h.2.2.1, hp.2.2⟩

theorem transfer_port (c : Option Byte) (h : d.PortSound) : (d.transfer c).PortSound := by
  unfold Dev.transfer; split
  · exact h
  · split
    · exact put_port _ h
    · exact take_port _ h
    · exact h
    · exact h

end Sys2Proof.Laws
end

