-- ==== Sys2Proof/Laws/Retention.lean ====
section
/-! SUPPORT. What keeps the regions, the levels and the urgency state in order: everything that leaves the core of the
retention scheduler alone, and the urgency evaluation. -/

namespace Sys2Proof.Laws

open Sys2Proof.Machine

theorem core_greatestDebt (r : Rs) : r.core.greatestDebt = r.greatestDebt := by
  unfold Rs.greatestDebt; simp [regionAt_core]

theorem core_sound (r : Rs) : r.core.Sound ↔ r.Sound := by
  have hm : ∀ (x : Region) (b : Bool), Region.Sound { x with stagedRfb := b } ↔ x.Sound := fun _ _ => Iff.rfl
  unfold Rs.Sound
  simp only [regionAt_core, core_greatestDebt, hm]
  exact Iff.rfl

/-- Whatever keeps the core keeps the order. -/
theorem sound_of_core {a b : Rs} (h : b.core = a.core) (ha : a.Sound) : b.Sound := by
  rw [← core_sound, h, core_sound]; exact ha

/-- The urgency evaluation restores what the levels ask of the urgency state. -/
theorem evalUrgency_sound (d : Dev) (h1 : ∀ n, (d.rs.regionAt n).Sound) (h2 : 3 ≤ d.rs.startLevel)
    (h3 : d.rs.startLevel ≤ 7) (h4 : d.rs.endLevel < d.rs.startLevel) : (Dev.evalUrgency d).rs.Sound := by
  have e : ∀ u, Rs.greatestDebt { d.rs.core with urgency := u } = d.rs.greatestDebt := fun u => core_greatestDebt d.rs
  rw [← core_sound, evalUrgency_core]
  refine ⟨fun n => ?_, h2, h3, h4, fun h => ?_, fun h => ?_⟩
  · show (d.rs.core.regionAt n).Sound
    rw [regionAt_core]; exact h1 n
  · rw [e] at h
    show nextUrgency _ _ _ _ = _
    have h : (d.rs.startLevel : Int) ≤ d.rs.greatestDebt := h
    unfold nextUrgency
    split <;> split_ifs <;> first | rfl | (exfalso; omega)
  · rw [e] at h
    show nextUrgency _ _ _ _ = _
    have h : d.rs.greatestDebt ≤ (d.rs.endLevel : Int) := h
    unfold nextUrgency
    split <;> split_ifs <;> first | rfl | (exfalso; omega)

theorem modRegion_sound (r : Rs) (n : RegionNo) (f : Region → Region) (hf : ∀ x : Region, x.Sound → (f x).Sound)
    (h : ∀ m, (r.regionAt m).Sound) : ∀ m, ((r.modRegion n f).regionAt m).Sound := by
  intro m
  by_cases hm : m = n
  · subst hm; rw [regionAt_modRegion]; exact hf _ (h m)
  · rw [regionAt_modRegion_ne _ _ _ _ hm]; exact h m

theorem regionAt_map (r : Rs) (f : Region → Region) (n : RegionNo) :
    Rs.regionAt { r with regions := r.regions.map f } n = f (r.regionAt n) := by
  simp [Rs.regionAt]

theorem credit_sound (x : Region) (h : x.Sound) : x.credit.Sound := by
  unfold Region.credit; split_ifs with he
  · exact h
  · unfold Region.Sound at *; simp_all; omega

theorem makeExempt_sound (x : Region) : x.makeExempt.Sound := by simp [Region.makeExempt, Region.Sound]

theorem raise_sound (x : Region) (h : x.Sound) : x.raise.Sound := by
  unfold Region.raise; split_ifs
  · exact h
  · unfold Region.Sound at *; simp_all

end Sys2Proof.Laws
end

