-- ==== Sys2Proof/Laws/Step.lean ====
section
/-! SUPPORT. What a step can do, said once: a property of the part that every effect keeps is kept by every command
and by every step. -/

namespace Sys2Proof.Laws

open Sys2Proof.Machine

/-- A property of the part that the two resets leave, and that the passing of time, the close of a step and every effect
of a command keep. -/
structure Keeps (P : Dev → Prop) : Prop where
  held : ∀ k, P (Dev.held k)
  elapseTo : ∀ t d, P d → P (Dev.elapseTo t d)
  close : ∀ b d, P d → P (Dev.close b d)
  release : ∀ sid pins d, P d → P (Dev.release sid pins d)
  ignored : ∀ d : Dev, P d → P { d with pu.csLow := false, pu.sdo := .highZ }
  busFree : ∀ d, P d → P (Dev.busFree d)
  arbitrationLost : ∀ d, P d → P (Dev.arbitrationLost d)
  bitError : ∀ d, P d → P (Dev.bitError d)
  sendComplete : ∀ acks d, P d → P (Dev.sendComplete acks d)
  receive : ∀ hd b d, P d → P (Dev.receive hd b d)
  discardFrame : ∀ d, P d → P (Dev.discardFrame d)
  ownNumber : ∀ d, P d → P (Dev.ownNumber d)
  listenEnd : ∀ d, P d → P (Dev.listenEnd d)
  enterMember : ∀ d, P d → P (Dev.enterMember d)
  beaconDue : ∀ t d, P d → P (Dev.beaconDue t d)
  fallSilent : ∀ s d, P d → P (Dev.fallSilent s d)
  expirePeer : ∀ s h d, P d → P (Dev.expirePeer s h d)
  ageing : ∀ t d, P d →
    P { d.elapseTo t with ht.surge := d.ht.surge.tail.filter (fun x => (d.elapseTo t).now ≤ x + surgeTime) }
  leaseExpire : ∀ h t d, P d → P (Dev.leaseExpire h t d)
  accrue : ∀ r t d, P d → (d.rs.regionAt r).timer = .running t → P (Dev.accrue r t d)
  headExpire : ∀ d, P d → P (Dev.headExpire d)
  prompt : ∀ d, P d → P (Dev.prompt d)
  deadlinePass : ∀ t d, P d → P (Dev.deadlinePass t d)
  placeLeave : ∀ d, P d → P { d with biu := d.biu.placeJoin .leave }
  recover : ∀ d, P d → P (Dev.recover d)
  quietSdo : ∀ d, P d → P (Dev.quietSdo d)
  request : ∀ r d, P d → P (Dev.takeRequest r d)
  discardPut : ∀ d, P d → P (Dev.discardPut d)
  malformed : ∀ d : Dev, P d → P { d with pu.malformed := inc16 d.pu.malformed }
  take : ∀ n d, P d → P (Dev.take n d)
  peek : ∀ n d, P d → P (Dev.peek n d)
  endTake : ∀ d : Dev, P d → P { d with pu := d.pu.endTake }

variable {P : Dev → Prop}

theorem Keeps.act (k : Keeps P) (can : Dev → Bool) (eff : Dev → Dev) (d : Dev) (h : P d) (he : P d → P (eff d)) :
    P (Dev.act can eff d) := by
  unfold Dev.act; split_ifs
  · exact k.close _ _ (he h)
  · exact h

theorem Keeps.actAt (k : Keeps P) (t : Option Time) (eff : Dev → Dev) (d : Dev) (h : P d)
    (he : ∀ u, t = some u → P (d.elapseTo u) → P (eff (d.elapseTo u))) : P (Dev.actAt t eff d) := by
  unfold Dev.actAt; split
  · exact k.act _ _ _ (k.elapseTo _ _ h) (he _ rfl)
  · exact h

/-- A command from outside whose event can always take place. -/
theorem Keeps.outside (k : Keeps P) {s : State} (h : P s.dev) (dt : Time) (eff : Dev → Dev)
    (he : ∀ d, P d → P (eff d)) : P (Dev.act always eff (s.dev.elapse dt)) :=
  k.act _ _ _ (k.elapseTo _ _ h) (he _)

/-- The end of a TAKE that was under way. -/
theorem Keeps.takeEnds (k : Keeps P) (d : Dev) (h : P d) : P d.endTake := by
  unfold Dev.endTake; split_ifs
  · exact h
  · exact k.close _ _ (k.prompt _ (k.endTake _ h))

/-- What may come of a transfer on the port. -/
theorem Keeps.onPort (k : Keeps P) (eff : Dev → Dev) (d : Dev) (h : P d) (he : ∀ e, P e → P (eff e)) :
    P (d.onPort eff) := by
  unfold Dev.onPort; split_ifs
  · exact h
  · exact k.ignored _ h
  · exact he _ (k.takeEnds _ h)

/-- A transfer of the controller that closes its step. -/
theorem Keeps.transfers (k : Keeps P) {s : State} (h : P s.dev) (dt : Time) (eff : Dev → Dev)
    (he : ∀ d, P d → P (eff d)) : P (Dev.actPort eff (s.dev.elapse dt)) :=
  k.onPort _ _ (k.elapseTo _ _ h) (fun _ hd => k.close _ _ (he _ hd))

/-- A request of the controller. -/
theorem Keeps.asks (k : Keeps P) {s : State} (h : P s.dev) (dt : Time) (r : Request) :
    P (Dev.actPort (fun d => Dev.takeRequest r d.quietSdo) (s.dev.elapse dt)) :=
  k.transfers h dt _ (fun _ hd => k.request r _ (k.quietSdo _ hd))

theorem Keeps.put (k : Keeps P) (bytes : List Byte) (d : Dev) (h : P d) : P (d.put bytes) := by
  unfold Dev.put; split
  · exact k.request _ _ (k.quietSdo _ h)
  · exact k.discardPut _ (k.quietSdo _ h)

theorem Keeps.transfer (k : Keeps P) (c : Option Byte) (d : Dev) (h : P d) : P (d.transfer c) := by
  unfold Dev.transfer; split
  · exact k.quietSdo _ h
  · split
    · exact k.put _ _ h
    · exact k.take _ _ h
    · exact k.peek _ _ h
    · exact k.malformed _ (k.quietSdo _ h)

theorem Keeps.rawFrame (k : Keeps P) (raw : RawFrame) (d : Dev) (h : P d) : P (d.rawFrame raw) := by
  unfold Dev.rawFrame; split
  · exact k.discardFrame _ h
  · exact k.receive _ _ _ h

/-- The states that a command can leave, command by command. -/
theorem Keeps.leaves (k : Keeps P) (c : Instr) (s : State) (h : P s.dev) :
    ∃ d, exec c s = .next { s with dev := d } ∧ P d := by
  cases c
  case powerOnReset => exact ⟨_, rfl, k.held _⟩
  case lineReset => exact ⟨_, rfl, k.held _⟩
  case resetRelease dt sid pins =>
    refine ⟨_, rfl, ?_⟩
    split_ifs
    · exact k.release _ _ _ (k.elapseTo _ _ h)
    · exact k.elapseTo _ _ h
  case busFree dt => exact ⟨_, rfl, k.act _ _ _ (k.elapseTo _ _ h) (k.busFree _)⟩
  case arbitrationLoss dt => exact ⟨_, rfl, k.act _ _ _ (k.elapseTo _ _ h) (k.arbitrationLost _)⟩
  case bitError dt => exact ⟨_, rfl, k.act _ _ _ (k.elapseTo _ _ h) (k.bitError _)⟩
  case sendComplete dt acks => exact ⟨_, rfl, k.act _ _ _ (k.elapseTo _ _ h) (k.sendComplete _ _)⟩
  case frameRejected dt raw => exact ⟨_, rfl, k.outside h dt _ (k.rawFrame raw)⟩
  case listenTimerExpiry => exact ⟨_, rfl, k.actAt _ _ _ h (fun _ _ => k.listenEnd _)⟩
  case collectTimerExpiry => exact ⟨_, rfl, k.actAt _ _ _ h (fun _ _ => k.enterMember _)⟩
  case beaconTimerExpiry => exact ⟨_, rfl, k.actAt _ _ _ h (fun _ _ => k.beaconDue _ _)⟩
  case silence x => exact ⟨_, rfl, k.actAt _ _ _ h (fun _ _ => k.fallSilent _ _)⟩
  case peerExpiry x y => exact ⟨_, rfl, k.actAt _ _ _ h (fun _ _ => k.expirePeer _ _ _)⟩
  case surgeEntryAgeing => exact ⟨_, rfl, k.actAt _ _ _ h (fun u _ _ => k.ageing u _ h)⟩
  case leaseTimerExpiry x => exact ⟨_, rfl, k.actAt _ _ _ h (fun _ _ => k.leaseExpire _ _ _)⟩
  case accrualTimerExpiry r =>
    refine ⟨_, rfl, k.actAt _ _ _ h (fun u hu hd => ?_)⟩
    rw [hu]
    refine k.accrue _ _ _ hd ?_
    unfold Dev.accrualAt at hu
    split at hu
    · cases hu; assumption
    · cases hu
  case headTimerExpiry => exact ⟨_, rfl, k.actAt _ _ _ h (fun _ _ => k.headExpire _)⟩
  case selectionTimerExpiry => exact ⟨_, rfl, k.actAt _ _ _ h (fun _ _ => k.prompt _)⟩
  case deadlinePasses x => exact ⟨_, rfl, k.actAt _ _ _ h (fun _ _ => k.deadlinePass _ _)⟩
  case ownHoldingsDrained => exact ⟨_, rfl, k.act _ _ _ h (k.placeLeave _)⟩
  case linkFaultRecovery => exact ⟨_, rfl, k.act _ _ _ h (k.recover _)⟩
  case setup dt a b c => exact ⟨_, rfl, k.asks h dt (.setup a b c)⟩
  case submit dt a b c n => exact ⟨_, rfl, k.asks h dt (.submit a b c n)⟩
  case cancel dt a => exact ⟨_, rfl, k.asks h dt (.cancel a)⟩
  case done dt a b => exact ⟨_, rfl, k.asks h dt (.done a b)⟩
  case rate dt a => exact ⟨_, rfl, k.asks h dt (.rate a)⟩
  case hold dt => exact ⟨_, rfl, k.asks h dt .hold⟩
  case resume dt => exact ⟨_, rfl, k.asks h dt .resume⟩
  case queryStation dt p => exact ⟨_, rfl, k.asks h dt (.query 0 p)⟩
  case queryRegions dt p => exact ⟨_, rfl, k.asks h dt (.query 1 p)⟩
  case queryTable dt p => exact ⟨_, rfl, k.asks h dt (.query 2 p)⟩
  case queryRoster dt p => exact ⟨_, rfl, k.asks h dt (.query 3 p)⟩
  case queryQueue dt p => exact ⟨_, rfl, k.asks h dt (.query 4 p)⟩
  case queryCounters dt p => exact ⟨_, rfl, k.asks h dt (.query 5 p)⟩
  case leaveRequest dt => exact ⟨_, rfl, k.asks h dt .leave⟩
  case rejoin dt => exact ⟨_, rfl, k.asks h dt .rejoin⟩
  case putMalformed dt bytes => exact ⟨_, rfl, k.transfers h dt _ (k.put bytes)⟩
  case transferCodeInvalid dt c => exact ⟨_, rfl, k.transfers h dt _ (k.transfer c)⟩
  case take dt n => exact ⟨_, rfl, k.transfers h dt _ (k.take n)⟩
  case peek dt n => exact ⟨_, rfl, k.onPort _ _ (k.elapseTo _ _ h) (k.peek n)⟩
  case frameBearingOwnNumber dt => exact ⟨_, rfl, k.outside h dt _ k.ownNumber⟩
  all_goals exact ⟨_, rfl, k.outside h _ _ (k.receive _ _)⟩

/-- A property that every effect keeps is kept by every command. -/
theorem Keeps.exec (k : Keeps P) {c : Instr} {s s' : State} (h : P s.dev) (he : exec c s = .next s') : P s'.dev := by
  obtain ⟨d, hd, hp⟩ := k.leaves c s h
  rw [hd] at he
  cases he
  exact hp

/-- A property that every effect keeps is kept by every step. -/
theorem Keeps.step (k : Keeps P) {s s' : State} (h : P s.dev) (he : step s = .next s') : P s'.dev := by
  unfold Machine.step at he
  split at he
  · cases he; exact h
  · rename_i c rest _
    exact k.exec (s := { s with pending := rest }) h he

end Sys2Proof.Laws
end

