-- ==== Sys2Proof/Tests/Slice0.lean ====
section
/-! SUPPORT. The tests: ill-formed commands, the worked examples of the manual, and for every statement that has
hypotheses a state and operands that meet them. -/

namespace Sys2Proof.Tests

open Sys2Proof Sys2Proof.Machine

/-! ### Small states -/

/-- A member of a board of 24 units, station 2. -/
def member : Dev := { Dev.held .powerOn with pc.presence := .member, pc.station := 2, pc.budget := 1 }

/-- The station in another presence state. -/
def inState (p : Presence) (d : Dev) : Dev := { d with pc.presence := p }

/-- Station 5 in a roster state, last heard at 100 with number 7. -/
def knows (p : PeerState) (d : Dev) : Dev :=
  d.modRoster 5 (fun r => { r with state := p, lastHeard := some 100, lastApplied := some 7 })

/-- The member that knows station 5. -/
def pair : Dev := knows .member member

/-- The part with no command waiting. -/
def st (d : Dev) : State := { dev := d, pending := [] }

/-- The part as a command leaves it. -/
def after (c : Instr) (d : Dev) : Dev :=
  match exec c (st d) with
  | .next s => s.dev
  | _ => d

/-- A command takes the part to its next state. -/
theorem after_next (c : Instr) (d : Dev) : exec c (st d) = .next (st (after c d)) := by
  cases c <;> rfl

/-- A head of a frame from station 5, not yet applied. -/
def hd5 : Head := { station := 5, fresh := true, seq := 9 }

/-- A claim record. -/
def claimOf (c : Cls) (tag : Option Byte) : Claim :=
  { handle := 3, cls := c, target := { region := 1, group := 0 }, tag := tag, cancel := false, urgent := false,
    unstageDue := false, seq := none }

/-- A frame whose attempt is under way. -/
def sends (r : SlotRef) (b : Body) : InHand :=
  { ref := r, body := b, seq := 0, patience := 7, fresh := true, sending := true, sends := 0, acked := 0,
    delivered := false }

/-- The part with a frame in hand. -/
def withFrame (f : InHand) (d : Dev) : Dev := { d with biu.inHand := some f }

/-- The part with a claim in the CLAIM slot. -/
def withClaim (c : Claim) (d : Dev) : Dev := { d with biu.outbox.claim := some c }

/-- A local entry. -/
def entryOf (tag : Byte) (c : Cls) : Entry :=
  { tag := tag, cls := c, region := some 1, deadline := some 4000, overdue := false, bypass := 0, staged := false,
    intent := false }

/-- The part with a local queue. -/
def withQueue (q : List Entry) (d : Dev) : Dev := { d with oqs.queue := q }

/-- A record of station 5. -/
def peer (h : Byte) (c : Cls) : Holding :=
  { station := 5, handle := h, cls := c, target := { region := 0, group := 0 }, extensions := 0,
    holder := .peer 100 (100 + leaseTime c + us 2000) }

/-- The local record of a running holding. -/
def running (tag : Option Byte) : OwnPart :=
  { goSent := true, leaseEnds := some 900, period := 1, done := none, tag := tag }

/-- An own record. -/
def own (h : Byte) (c : Cls) (p : OwnPart) : Holding :=
  { station := 2, handle := h, cls := c, target := { region := 1, group := 0 }, extensions := 0, holder := .own p }

/-- The part with these records. -/
def withHoldings (l : List Holding) (d : Dev) : Dev := { d with ht.holdings := l }

/-- A full list of peers' records. -/
def fullList : List Holding := (List.range 32).map (fun n => peer (BitVec.ofNat 8 n) .rfb)

/-- The part with a region's record changed. -/
def withRegion (n : RegionNo) (f : Region → Region) (d : Dev) : Dev := d.modRegion n f

/-- The part with this many notices. -/
def withNotices (n : Nat) (d : Dev) : Dev := { d with pu.notices := List.replicate n (.accept 1) }

/-! ### Ill-formed commands -/

/-- A PLEA of station 5 as the line carries it, with a given CRC byte. -/
def rawPlea (sync : Bool) (crc : Byte) : RawFrame :=
  { syncOk := sync, byte0 := 0x3F, byte1 := 0x50, byte2 := 9, payload := [], crc := crc }

/-- The CRC byte of that PLEA. -/
def pleaCrc : Byte := crc8 [0x3F, 0x50, 9]

theorem test_wf_frame_that_passes : (Instr.frameRejected 0 (rawPlea true pleaCrc)).wf = false := by decide +kernel
theorem test_wf_frame_that_fails : (Instr.frameRejected 0 (rawPlea false pleaCrc)).wf = true := by decide
theorem test_wf_claim_of_no_class : (Instr.claimReceived 0 hd5 1 4 3 0).wf = false := by decide
theorem test_wf_claim_of_wrong_cost : (Instr.claimReceived 0 hd5 1 0 2 0).wf = false := by decide
theorem test_wf_claim : (Instr.claimReceived 0 hd5 1 0 3 0).wf = true := by decide
theorem test_wf_urgent_claim_of_wrong_cost : (Instr.urgentClaimReceived 0 hd5 1 3 11 0).wf = false := by decide
theorem test_wf_put_that_passes : (Instr.putMalformed 0 [1, 6]).wf = false := by decide
theorem test_wf_put_that_fails : (Instr.putMalformed 0 [2, 6, 0]).wf = true := by decide
theorem test_wf_transfer_of_a_code : (Instr.transferCodeInvalid 0 (some 0xE2)).wf = false := by decide
theorem test_wf_transfer_of_no_code : (Instr.transferCodeInvalid 0 (some 0xE4)).wf = true := by decide

/-! ### Worked examples of the manual -/

/-- The listing of R25's example. -/
theorem test_listing : Ht.listing { member.ht with
    holdings := [{ peer 9 .rfb with station := 5 }, { peer 1 .cal with station := 12 }],
    pleas := maskBit 12, calQueue := [(12, 4), (2, 9)] } =
      [0x05, 0x09, 0x00, 0x03, 0x0C, 0x01, 0x01, 0x02, 0x10, 0x00, 0x0C, 0x02] := by decide

/-- An own claim is delivered in a first send, GO joins and the lease runs (R57). -/
theorem test_claim_to_go :
    let d := withFrame (sends .claim (claimOf .scb (some 4)).body)
      (withClaim (claimOf .scb (some 4)) (withQueue [{ entryOf 4 .scb with staged := true }] pair))
    let e := after (.sendComplete 400 ⟨0xFB, 0xFF⟩) { d with pu.goReserved := true }
    e.pu.notices = [.go 3 .scb (some 4) { region := 1, group := 0 } 2000] ∧ e.oqs.queue = [] ∧
      e.ht.holdings = [own 3 .scb { running (some 4) with leaseEnds := some (400 + us 2000) }] ∧
      e.biu.inHand = none := by decide

/-- Station 5 acknowledges in bit 2 of the first byte, station 8 in bit 7 of the second (R185). -/
theorem test_ack_slots : slotBytes (maskBit 5) = [0xFB, 0xFF] ∧ slotBytes (maskBit 8) = [0xFF, 0x7F] ∧
    ackSlots 0xFB 0xFF = maskBit 5 ∧ ackSlots 0xFF 0x7F = maskBit 8 := by decide

/-- A transfer whose CS_N was low as reset was released is ignored; the next one is taken (R170). -/
theorem test_cs_low_at_release :
    let d := after (.hold 0) (after (.resetRelease 0 2 ⟨1, true⟩) (Dev.held .powerOn))
    d.rs.hold = false ∧ d.pu.sdo = .highZ ∧ (after (.hold 0) d).rs.hold = true := by decide

/-- HOLD meets a claim in its first attempt; RESUME before the attempt is lost does not undo the unstaging (R44,
R161). -/
theorem test_hold_in_transmission :
    let d := withFrame (sends .claim (claimOf .rfb none).body) (withClaim (claimOf .rfb none) pair)
    let e := after (.arbitrationLoss 0) (after (.resume 0) (after (.hold 0) d))
    e.biu.outbox.claim.map Claim.handle ≠ some 3 := by decide +kernel

/-- A frame whose third repeat ends unacknowledged is counted in CONFIG_FAULT too, where no link fault follows (R41,
R56). -/
theorem test_third_repeat_in_config_fault :
    let d := inState .configFault (withFrame { sends .plea .plea with sends := 3, fresh := false } pair)
    let e := after (.sendComplete 0 ⟨0xFF, 0xFF⟩) d
    e.biu.undelivered = 1 ∧ e.biu.inHand = none ∧ e.pc.presence = .configFault := by decide

/-- A TAKE that ends between the two notices of one event frees a place for the second: STATE finds the queue full and
is dropped, and the ALERT joins (R178). -/
theorem test_take_between_two_notices :
    let d := after (.frameBearingOwnNumber 0) (after (.take 0 ⟨3, 1⟩) (withNotices 16 pair))
    d.pu.notices = List.replicate 15 (.accept 1) ++ [.alert (.configFault .duplicateStation)] ∧ d.pu.lost = 1 ∧
      d.pu.portError = true ∧ d.pu.takeLeft = 0 ∧ d.pc.presence = .configFault := by decide

/-- A TAKE that outlasts the commands before the next transfer has ended as that transfer begins (R170, R172). -/
theorem test_take_ends_before_the_next_transfer :
    let d := after (.take 0 ⟨3, 2⟩) (withNotices 13 pair)
    d.pu.notices.length = 13 ∧ d.pu.takeLeft = 2 ∧ d.biu.outbox.claim = none ∧
      (after (.peek 0 2) d).pu.sdo = .shifted [12, 0x40] ∧ (after (.peek 0 2) d).pu.takeLeft = 0 ∧
      (after (.peek 0 2) d).biu.outbox.claim.isSome = true ∧ (after .lineReset d).pu.takeLeft = 0 := by decide

/-- A frame as sent is read back (R185, R186). -/
theorem test_frame_of_plea : frameBytes 7 true 5 9 .plea = [0x3F, 0x50, 9, pleaCrc] := by decide +kernel

/-- The release of reset, then the end of the listen window, leaves a JOIN waiting (R84, R85). -/
theorem test_reset_to_joining :
    let d := after .listenTimerExpiry (after (.resetRelease 0 2 ⟨1, false⟩) (Dev.held .powerOn))
    d.pc.presence = .joining ∧ d.biu.outbox.joinLeave.content = some { body := .join, seq := none } ∧
      d.pu.notices = [.reset .powerOn, .state .joining] ∧ d.now = us 6000 := by decide

/-! ### Every statement's hypotheses are met -/

theorem test_met_StepTakesTheFrontCommand :
    ({ dev := member, pending := [.hold 0, .resume 0] } : State).pending = .hold 0 :: [.resume 0] ∧
      (st member).pending = [] := by decide

theorem test_met_HeldPartWaitsForItsRelease :
    (State.reset.dev.pc.presence = .offline ∧ Instr.hold 0 ≠ .powerOnReset ∧ Instr.hold 0 ≠ .lineReset ∧
      ∀ dt sid pins, Instr.hold 0 ≠ .resetRelease dt sid pins) ∧
    timeOf (.hold 0) = some 0 ∧ timeOf .listenTimerExpiry = none ∧
    ({ Dev.held .powerOn with pc.listenEnds := some 9 } : Dev).endOf .listenTimerExpiry = some 9 ∧
    State.reset.dev.endOf .listenTimerExpiry = none ∧ State.reset.dev = { Dev.held .powerOn with now := 0 } ∧
    -- reset held for 40 before its release
    (st (after (.hold 40) (Dev.held .line))).dev = { Dev.held .line with now := 40 } :=
  ⟨⟨rfl, nofun, nofun, nofun⟩, rfl, rfl, rfl, rfl, rfl, rfl⟩

theorem test_met_AttentionLineFollowsTheNoticeQueue :
    member.PortSound ∧ member.pu.notices = [] ∧
      ((withNotices 16 member).notify (.accept 2)).pu.notices = (withNotices 16 member).pu.notices ∧
      (st (withNotices 1 member)).dev.TakesTransfers ∧ (withNotices 1 member).pu.notices = [.accept 1] ∧
      (Notice.accept 1).bytes.length ≤ 3 := by
  unfold Dev.PortSound; decide

theorem test_met_RateAndSetupAreTakenOrRefused :
    (st member).dev.TakesTransfers ∧ (0 : Byte) ≠ 1 ∧ (0 : Byte) ≠ 2 ∧ (3 : Byte) ≠ 1 ∧ (3 : Byte) ≠ 2 ∧
      ((withRegion 0 (Region.startTimer 8000) member).rs.regionAt 0).timer = .running 8000 ∧
      member.pu.setupLock = false ∧ ({ member with pu.setupLock := true } : Dev).pu.setupLock = true ∧
      ((0x0F : Byte).toNat < 16 ∧ 3 ≤ (3 : Byte).toNat ∧ (3 : Byte).toNat ≤ 7 ∧
        (2 : Byte).toNat < (3 : Byte).toNat) ∧
      ((0 : Byte).toNat < 16 ∧ 3 ≤ (7 : Byte).toNat ∧ (7 : Byte).toNat ≤ 7 ∧ (6 : Byte).toNat < (7 : Byte).toNat) ∧
      ¬ ((0x10 : Byte).toNat < 16) ∧ ¬ (3 ≤ (2 : Byte).toNat) ∧ ¬ ((8 : Byte).toNat ≤ 7) ∧
      ¬ ((5 : Byte).toNat < (5 : Byte).toNat) := by decide

/-- A claim on its way, its GO place reserved. -/
def claiming : Dev :=
  { withFrame (sends .claim (claimOf .rfb none).body) (withClaim (claimOf .rfb none) (withNotices 15 pair)) with
    pu.goReserved := true }

theorem test_met_NoticeQueueInvariantKept :
    claiming.PortSound ∧ step { dev := claiming, pending := [.sendComplete 0 ⟨0xFB, 0xFF⟩] } =
      .next { dev := after (.sendComplete 0 ⟨0xFB, 0xFF⟩) claiming, pending := [] } := by
  refine ⟨?_, rfl⟩
  unfold Dev.PortSound; decide

theorem test_met_RetentionInvariantKept :
    (withRegion 0 (fun r => { r with debt := 2 }) member).rs.Sound ∧
      step (st (withRegion 0 (fun r => { r with debt := 2 }) member)) =
        .next (st (withRegion 0 (fun r => { r with debt := 2 }) member)) := by
  refine ⟨?_, rfl⟩
  unfold Rs.Sound Region.Sound; decide

theorem test_met_HoldingTableInvariantKept :
    (withHoldings fullList claiming).TableSound ∧
      step { dev := withHoldings fullList claiming, pending := [.hold 0] } =
        .next { dev := after (.hold 0) (withHoldings fullList claiming), pending := [] } := by
  refine ⟨⟨?_, by decide, ?_, by decide, by decide⟩, rfl⟩
  · unfold Canonical; decide
  · intro f hf; cases hf; unfold InHand.Sound; decide

/-- Two own holdings, one RUNNING with an EXTEND in its place, one RELEASING with a RELEASE. -/
def holding : Dev :=
  { withHoldings [own 3 .rfb (running none), own 4 .scb { running (some 7) with leaseEnds := none, done := some .ok }]
      pair with
    biu.outbox.extend := [{ handle := 3, slot := { content := some { body := 1, seq := none }, next := none } }],
    biu.outbox.release := [{ handle := 4, outcome := .ok, seq := none }] }

theorem test_met_OwnPlacesInvariantKept :
    holding.PlacesSound ∧ step { dev := holding, pending := [.leaseTimerExpiry 3] } =
      .next { dev := after (.leaseTimerExpiry 3) holding, pending := [] } := by
  refine ⟨⟨⟨?_, by decide, nofun, by decide, by decide⟩, nofun, by decide, nofun, by decide, by decide, nofun,
    ⟨by decide, ?_, nofun⟩, ⟨by decide, ?_⟩⟩, rfl⟩
  · unfold Canonical; decide
  · intro r hr
    obtain rfl := List.mem_singleton.1 hr
    exact Or.inl ⟨_, List.mem_cons_of_mem _ List.mem_cons_self, rfl, by decide⟩
  · intro e he
    obtain rfl := List.mem_singleton.1 he
    exact ⟨_, List.mem_cons_self, rfl, Or.inl (by decide)⟩

theorem test_met_CountersAndListsStayInRange :
    claiming.Bounded ∧ step { dev := claiming, pending := [.bitError 0] } =
      .next { dev := after (.bitError 0) claiming, pending := [] } := by
  refine ⟨?_, rfl⟩
  refine ⟨by decide, by decide, by decide, by decide, by decide, by decide, by decide, by decide, ?_, by decide,
    by decide, by decide, by decide, by decide, by decide, nofun⟩
  unfold RosterRec.Sound; decide

/-- The part in CONFIG_FAULT. -/
def faulted : Dev := inState .configFault pair

theorem test_met_StandingSettingsChangeByTheirRequestAlone :
    (st member).dev.Up ∧ Instr.rate 0 2 ≠ .powerOnReset ∧ Instr.rate 0 2 ≠ .lineReset ∧
      exec (.rate 0 2) (st member) = .next (st (after (.rate 0 2) member)) ∧ (st faulted).dev.InConfigFault :=
  ⟨by decide, nofun, nofun, rfl, rfl, rfl, rfl, rfl⟩

theorem test_met_RailConditionsCountStartsAndUnits :
    member.pc.budget = 1 ∧ heldUnits (withHoldings [peer 1 .rfb, peer 2 .ini] member).ht.holdings = 15 ∧
      heldUnits (withHoldings [peer 1 .rfb, peer 2 .scb, peer 3 .ini] member).ht.holdings = 21 ∧
      ({ member with ht.surge := List.replicate 12 0 } : Dev).a3 = false ∧
      (withHoldings [peer 1 .rfb, peer 2 .scb, peer 3 .ini] member).a4 .cal = false := by decide

/-- A member that a selection is due for, with a region that owes a burst and a local entry. -/
def selecting (debt : Int) (q : List Entry) : Dev :=
  { withQueue q (withRegion 1 (fun r => { r with debt := debt }) pair) with oqs.selectDue := true }

/-- A member whose controller has a TAKE under way. -/
def taking : Dev := { withNotices 16 pair with pu.takeLeft := 1 }

theorem test_met_StagingFollowsAPassedSelection :
    ((selecting 1 [entryOf 4 .scb]).oqs.queue.map Entry.tag).Nodup ∧ (selecting 1 []).biu.outbox.claim = none ∧
      -- a selection due by a TAKE that ended in the step alone
      ((Dev.close taking { selecting 1 [] with oqs.selectDue := false }).biu.outbox.claim.map Claim.tag) = some none ∧
      ((Dev.close pair (selecting 1 [])).biu.outbox.claim.map Claim.tag) = some none ∧
      ((Dev.close pair (selecting (-8) [entryOf 4 .scb])).biu.outbox.claim.map Claim.tag) = some (some 4) ∧
      -- the counter's value, and the one after it where an own holding has that
      ((Dev.close pair (selecting 1 [])).biu.outbox.claim.map Claim.handle) = some 0 ∧
      ((Dev.close pair (withHoldings [own 0 .ini (running (some 9))] (selecting 1 []))).biu.outbox.claim.map
        Claim.handle) = some 1 := by decide

/-- The same with an entry passed over four times that lacks units. -/
def blocked (debt : Int) : Dev :=
  withHoldings [peer 1 .rfb, peer 2 .ini] (selecting debt [{ entryOf 4 .scb with bypass := 4 }])

/-- The claim that closing a selection stages. -/
def staged (d : Dev) : Option (Option Byte) := (Dev.close pair d).biu.outbox.claim.map Claim.tag

theorem test_met_SelectionKeepsItsOrder :
    ((selecting 1 [entryOf 4 .scb]).oqs.queue.map Entry.tag).Nodup ∧ (selecting 1 []).biu.outbox.claim = none ∧
    -- a demand that passes
    (selecting 1 [entryOf 4 .scb]).normalDemand = some 1 ∧
    (selecting 1 [entryOf 4 .scb]).firstFail .rfb 1 = none ∧ staged (selecting 1 [entryOf 4 .scb]) = some none ∧
    -- an entry at 4, then one below 4, none with a demand
    (selecting (-8) []).normalDemand = none ∧
    staged (selecting (-8) [entryOf 3 .scb, { entryOf 4 .scb with bypass := 4 }]) = some (some 4) ∧
    staged (selecting (-8) [entryOf 3 .cal, entryOf 4 .scb]) = some (some 4) ∧
    -- pull-in
    (selecting 0 []).pullInDemand = some 0 ∧ staged (selecting 0 []) = some none ∧
    -- a block: nothing is staged, though the five conditions hold
    (blocked (-8)).testEntry { entryOf 4 .scb with bypass := 4 } = some .a4 ∧ staged (blocked (-8)) = none ∧
    Dev.SelectionDue pair (blocked (-8)) ∧ (blocked (-8)).pc.presence = .member ∧ (blocked (-8)).ht.forced = [] ∧
    (blocked (-8)).ownHoldings.length < 2 ∧ (blocked (-8)).pu.notices.length ≤ 12 ∧ (blocked (-8)).rs.hold = false ∧
    (blocked (-8)).rs.urgency = .normal ∧ (blocked (-8)).ht.pleas = 0 := by
  unfold Dev.SelectionDue; decide +kernel

theorem test_met_EnqueueIsPlacedWhenItsConditionsHold :
    let d := withQueue [entryOf 1 .scb, entryOf 4 .cal] pair
    -- the five conditions
    (d.pc.presence = .member ∧ (∃ x ∈ d.oqs.queue, x.cls = .cal ∧ x.staged = false) ∧
      (∀ x ∈ d.ht.calQueue, x.1 ≠ d.pc.station) ∧ d.biu.outbox.intent.holds .enqueue = false ∧
      d.biu.outbox.intent.holds .requeue = false ∧ ∀ h ∈ d.ownHoldings, h.cls ≠ .cal) ∧
    d.oqs.queue = [entryOf 1 .scb] ++ entryOf 4 .cal :: [] ∧ (entryOf 4 .cal).cls = .cal ∧
    (∀ y ∈ [entryOf 1 .scb], ¬ (y.cls = .cal ∧ y.staged = false)) ∧
    -- no CAL entry; an own entry in the calibration queue; an ENQUEUE placed
    (∀ x ∈ pair.oqs.queue, ¬ (x.cls = .cal ∧ x.staged = false)) ∧
    (∃ x ∈ ({ pair with ht.calQueue := [(2, 7)] } : Dev).ht.calQueue, x.1 = pair.pc.station) ∧
    (d.biu.placeIntent .enqueue).outbox.intent.holds .enqueue = true := by
  refine ⟨⟨by decide, by decide, nofun, by decide, by decide, nofun⟩, rfl, by decide, by decide, nofun, ?_, by decide⟩
  exact ⟨_, List.mem_singleton_self _, rfl⟩

/-- A refresh claim that waits in MEMBER; its region owes a burst. -/
def waiting : Dev := withClaim (claimOf .rfb none) (withRegion 1 (fun r => { r with debt := 1 }) pair)

theorem test_met_FreeBusOffersTheLowestKind :
    (st waiting).dev.Up ∧ (st pair).dev.biu.inHand = none ∧ pair.retest.candidates = [] ∧
      waiting.retest.candidates ≠ [] ∧ waiting.retest.pc.presence.serves = true ∧
      (inState .listening pair).retest.pc.presence.serves = false ∧
      ((inState .linkFault pair).pc.presence = .linkFault ∧ (inState .linkFault pair).settled = true) ∧
      ({ sends .joinLeave .leave with sending := false, sends := 1 } : InHand).sending = false ∧
      (inState .detached pair).pc.presence = .detached ∧
      (st claiming).dev.Sends (sends .claim (claimOf .rfb none).body) := by decide

theorem test_met_StagedClaimIsTestedBeforeItIsSent :
    waiting.biu.stagedClaim = some (claimOf .rfb none) ∧ waiting.stagedPasses (claimOf .rfb none) = true ∧
      waiting.pc.presence = .member ∧ (inState .leaving waiting).pc.presence ≠ .member ∧
      (withNotices 13 waiting).stagedPasses (claimOf .rfb none) = false ∧
      (withNotices 13 waiting).biu.stagedClaim = some (claimOf .rfb none) ∧
      ((withRegion 1 (fun r => { r with debt := 0 }) waiting).rs.regionAt 1).debt ≤ 0 ∧
      waiting.biu.inHand = none ∧ exec (.busFree 8) (st waiting) = .next (st (after (.busFree 8) waiting)) ∧
      ((after (.busFree 8) waiting).biu.inHand.map InHand.ref) = some .claim :=
  ⟨by decide, by decide, by decide, by decide, by decide, by decide, by decide, rfl, rfl, by decide⟩

/-- A PLEA whose attempt is under way. -/
def pleading : Dev := withFrame (sends .plea .plea) pair

theorem test_met_LossesAndBusErrorsKeepTheFrame :
    (st pleading).dev.Up ∧ (st pleading).dev.Sends (sends .plea .plea) ∧
      ({ pleading with biu.consecErrors := 14 } : Dev).biu.consecErrors < 15 ∧
      ({ pleading with biu.consecErrors := 15 } : Dev).biu.consecErrors = 15 ∧ (st pair).dev.biu.attempting = false ∧
      (inState .configFault pleading).pc.presence = .configFault ∧ pleading.pc.presence ≠ .configFault ∧
      1 ≤ ({ sends .plea .plea with sends := 1 } : InHand).sends ∧ (sends .plea .plea).sends = 0 ∧
      (sends .plea .plea).ref ≠ .claim ∧ (sends .claim (claimOf .rfb none).body).ref = .claim ∧
      claiming.biu.outbox.claim = some (claimOf .rfb none) ∧ (claimOf .rfb none).cancel = false ∧
      (claimOf .rfb none).unstageDue = false ∧ claiming.pc.presence = .member ∧
      ({ claimOf .rfb none with cancel := true } : Claim).cancel = true := by decide

theorem test_met_SendsAreDeliveredRepeatedOrGivenUp :
    let none' := ackSlots 0xFF 0xFF &&& pleading.pc.memberMask
    let five := ackSlots 0xFB 0xFF &&& pleading.pc.memberMask
    let seven := knows .member (pleading.modRoster 7 (fun r => { r with state := .member }))
    -- not delivered: nobody acknowledges, before and after the third repeat
    ((st pleading).dev.Up ∧ pleading.Sends (sends .plea .plea) ∧ (sends .plea .plea).delivered = false ∧
      pleading.pc.memberMask ≠ 0 ∧ ((sends .plea .plea).acked ||| none') &&& pleading.pc.memberMask = 0 ∧
      (sends .plea .plea).sends < 3 ∧ 3 ≤ ({ sends .plea .plea with sends := 3 } : InHand).sends) ∧
    -- station 5 acknowledges; no other member at all
    ((sends .plea .plea).acked ||| five) &&& pleading.pc.memberMask ≠ 0 ∧ member.pc.memberMask = 0 ∧
    -- delivered already, and station 7 has not acknowledged
    (({ sends .plea .plea with delivered := true, sends := 1, acked := 0x20 } : InHand).delivered = true ∧
      seven.pc.memberMask &&& ~~~((0x20 : BitVec 16) ||| (ackSlots 0xFF 0xFF &&& seven.pc.memberMask)) ≠ 0) ∧
    -- what is in hand after a send
    (pleading.biu.inHand = some (sends .plea .plea) ∧ pleading.pc.memberMask &&& ~~~(0x20 : BitVec 16) = 0 ∧
      pleading.pc.memberMask &&& ~~~(sends .plea .plea).acked ≠ 0 ∧
      3 < ({ sends .plea .plea with sends := 4 } : InHand).sends ∧
      (inState .configFault pleading).pc.presence = .configFault) := by decide

theorem test_met_UndeliveredClaimReturnsItsOrigin :
    (claimOf .scb (some 4)).tag = some 4 ∧ ({ claimOf .scb (some 4) with cancel := true } : Claim).cancel = true ∧
      (withQueue [{ entryOf 4 .scb with overdue := true }] pair).isOverdue 4 = true ∧
      (withQueue [entryOf 4 .scb] pair).isOverdue 4 = false ∧ (claimOf .rfb none).tag = none ∧
      (sends .claim .plea).ref = .claim ∧ (sends .claim .plea).delivered = false ∧
      claiming.biu.outbox.claim = some (claimOf .rfb none) ∧
      ({ sends .claim .plea with delivered := true } : InHand).delivered = true ∧ (sends .plea .plea).ref ≠ .claim := by
  decide

/-- The part with its PLEA/CLEAR and INTENT slots filled. -/
def placed : Biu := (pair.biu.placePlea .plea).placeIntent .requeue

theorem test_met_SlotsSettleNewerFrames :
    let two : Slot PleaKind := { content := some { body := .plea, seq := none }, next := some .clear }
    ((Slot.empty : Slot PleaKind).content = none ∧ placed.outbox.plea.content = some { body := .plea, seq := none } ∧
      placed.outbox.plea.next = none ∧ two.content = some { body := .plea, seq := none } ∧ two.next = some .clear) ∧
    (PleaKind.plea ≠ .clear ∧ ¬ (IntentAction.requeue = .enqueue ∧ IntentAction.withdraw = .withdraw)) ∧
    ((∀ e ∈ pair.biu.outbox.extend, e.handle ≠ 3) ∧
      (holding.biu.outbox.extend.find? (fun e => e.handle == 3)).isSome = true ∧ pair.biu.answerBusy = false ∧
      (withFrame (sends .summary (.summary 0 0 0)) pair).biu.answerBusy = true) ∧
    (holding.biu.inHandIs (.extend 3) = false ∧
      (withFrame (sends (.extend 3) (.extend 3 1)) holding).biu.inHandIs (.extend 3) = true ∧
      holding.biu.inHandIs (.holding 3) = false ∧
      (withFrame (sends (.holding 3) (.holding 3 0 3 0 0 1)) holding).biu.inHandIs (.holding 3) = true) ∧
    (holding.biu.outbox.hasRelease 4 = true ∧ holding.biu.outbox.hasRelease 3 = false ∧
      holding.biu.outbox.answer.next = none ∧
      ((withFrame (sends .summary (.summary 0 0 0)) pair).biu.placeAnswer AnswerGroup.empty).outbox.answer.next =
        some AnswerGroup.empty) ∧
    (placed.outbox.intent.content = some { body := .requeue, seq := none } ∧ placed.inHandIs .intent = false) := by
  decide

theorem test_met_OwnFramesCarryTheStateAsItStands :
    let told := pair.biu.placeAnswer { summary := some none, holdings := [{ body := 3, seq := none }] }
    let rest := holding.biu.placeAnswer { summary := none, holdings := [{ body := 3, seq := none }] }
    pair.biu.placeBeacon.outbox.beacon.content = some { body := (), seq := none } ∧
      (told.outbox.answer.group.summary = some none ∧ told.outbox.answer.group.holdings.length ≤ 2) ∧
      (rest.outbox.answer.group.summary = none ∧
        rest.outbox.answer.group.holdings = { body := 3, seq := none } :: [] ∧
        holding.ownHolding? 3 = some (own 3 .rfb (running none)) ∧
        (own 3 .rfb (running none)).holder = .own (running none)) ∧
      placed.outbox.intent.content = some { body := .requeue, seq := none } ∧ pair.pc.presence = .member ∧
      (inState .syncing pair).pc.presence ≠ .member ∧
      (pair.biu.placeJoin .join).outbox.joinLeave.content = some { body := .join, seq := none } ∧
      (pair.biu.placeJoin .leave).outbox.joinLeave.content = some { body := .leave, seq := none } ∧
      holding.biu.outbox.release = { handle := 4, outcome := .ok, seq := none } :: [] ∧
      (holding.biu.outbox.extend.map (fun e => e.slot.content)) = [some { body := 1, seq := none }] ∧
      placed.outbox.plea.content = some { body := .plea, seq := none } ∧
      pair.biu.placeResync.outbox.resync.content = some { body := (), seq := none } ∧
      (pair.biu.outbox.release = [] ∧ pair.biu.outbox.extend = [] ∧ pair.biu.outbox.plea.content = none ∧
        pair.biu.outbox.resync.content = none ∧ pair.biu.outbox.beacon.content = none ∧
        pair.biu.outbox.intent.content = none ∧ pair.biu.outbox.answer.group.summary = none ∧
        pair.biu.outbox.answer.group.holdings = [] ∧ pair.biu.outbox.joinLeave.content = none) := by decide

theorem test_met_OwnClaimDeliveryMakesAHolding :
    let again : InHand := { sends .claim (claimOf .rfb none).body with sends := 1, fresh := false }
    (st claiming).dev.Up ∧
      (st claiming).dev.AllAcknowledge (sends .claim (claimOf .rfb none).body) (ackSlots 0xFB 0xFF) ∧
      (withFrame again claiming).AllAcknowledge again (ackSlots 0xFB 0xFF) ∧ 1 ≤ again.sends ∧
      isClaimFrame (claimOf .rfb none).body = true ∧ claiming.biu.outbox.claim = some (claimOf .rfb none) ∧
      (withHoldings fullList claiming).ht.holdings.length = 32 ∧
      -- a full list of equal expiries gives up its first record; a list of own records alone none
      32 ≤ fullList.length ∧ fullList.Pairwise (fun x y => x.key < y.key) ∧
      fullList = [] ++ peer 0 .rfb :: fullList.tail ∧
      (peer 0 .rfb).holder = .peer 100 (100 + leaseTime .rfb + us 2000) ∧
      (∀ x ∈ fullList.tail, x.expiry = some (100 + leaseTime .rfb + us 2000)) ∧
      (∀ x ∈ [own 3 .rfb (running none)], x.isOwn = true) := by decide +kernel

/-- A RELEASE whose attempt is under way, of a refresh. -/
def releasing : Dev := withHoldings [own 3 .rfb (running none)] (withFrame (sends (.release 3) (.release 3 0)) pair)

theorem test_met_OwnReleaseDeliveryEndsTheHolding :
    (st releasing).dev.Up ∧
      (st releasing).dev.AllAcknowledge (sends (.release 3) (.release 3 0)) (ackSlots 0xFB 0xFF) ∧
      (sends (.release 3) (.release 3 0)).body = .release 3 (RelOutcome.code .ok) ∧
      findHolding releasing.pc.station 3 releasing.ht.holdings = some (own 3 .rfb (running none)) := by decide

theorem test_met_OwnFramesReachTheOwnReplica :
    (st pleading).dev.Up ∧
      (st pleading).dev.AllAcknowledge (sends .plea .plea) (ackSlots 0xFB 0xFF) ∧
      (sends .plea .plea).ref ≠ .claim ∧
      (sends .plea .plea).body = .plea ∧ (sends .plea .clear).body = .clear ∧
      (sends (.extend 3) (.extend 3 1)).body = .extend 3 1 ∧ (sends .intent (.intent 2 5)).body = .intent 2 5 ∧
      (kindOf (sends .summary (.summary 0 0 0)).body).toNat = 8 ∧ (kindOf (Body.beacon 0 0)).toNat = 10 := by decide

theorem test_met_OwnPresenceFramesMoveTheStation :
    let join := sends .joinLeave (.join 1 1)
    let leave := sends .joinLeave .leave
    let resync := sends .resync .resync
    (withFrame join (inState .joining pair)).AllAcknowledge join (ackSlots 0xFB 0xFF) ∧
      (withFrame join (inState .joining member)).AllAcknowledge join (ackSlots 0xFF 0xFF) ∧
      member.pc.memberMask = 0 ∧ pair.pc.memberMask ≠ 0 ∧
      (withFrame leave (inState .leaving pair)).AllAcknowledge leave (ackSlots 0xFB 0xFF) ∧
      (withFrame leave (inState .linkFault pair)).AllAcknowledge leave (ackSlots 0xFB 0xFF) ∧
      (withFrame leave (inState .configFault pair)).AllAcknowledge leave (ackSlots 0xFB 0xFF) ∧
      (withFrame resync (inState .syncing pair)).AllAcknowledge resync (ackSlots 0xFB 0xFF) ∧
      (inState .syncing pair).pc.window = none ∧ resync.ref ≠ .claim := by decide

theorem test_met_FrameReadsBackAsSent :
    (rawPlea true pleaCrc).syncOk = true ∧
      [(rawPlea true pleaCrc).byte0, (rawPlea true pleaCrc).byte1, (rawPlea true pleaCrc).byte2] ++
        (rawPlea true pleaCrc).payload ++ [(rawPlea true pleaCrc).crc] = frameBytes 7 true 5 9 .plea ∧
      Body.plea.costOk = true ∧ (Body.claim false 1 0 2 0).costOk = false := by decide +kernel

theorem test_met_ReceiverDiscardsAcknowledgesOrRepeats :
    (st pair).dev.Up ∧ (rawPlea false pleaCrc).read = none ∧ (rawPlea true 0).read = none ∧
      crc8 [0x3F, 0x50, 9] ≠ 0 ∧ (rawPlea true pleaCrc).read = some (hd5, .plea) ∧
      8 < ({ rawPlea true 0 with byte1 := 0x59 } : RawFrame).length ∧
      13 ≤ ((0xD0 : Byte).extractLsb' 4 4).toNat ∧ Body.plea.costOk = true ∧ faulted.pc.presence = .configFault ∧
      ((knows .silent member).pc.rosterAt 5).state = .silent ∧ isJoinFrame .plea = false ∧
      (pair.pc.rosterAt 5).state ≠ .silent ∧ hd5.station ≠ pair.pc.station ∧
      frameOf (.pleaReceived 0 hd5) = some (0, hd5, .plea) ∧ (Body.claim false 1 0 2 0).costOk = false ∧
      ({ hd5 with station := 2 } : Head).station = pair.pc.station ∧ pair.isRepeat hd5 = false ∧
      pair.isRepeat { hd5 with fresh := false, seq := 7 } = true ∧
      cfgCheck pair.pc.budget (.join 0 1) = some .budgetMismatch ∧ cfgCheck pair.pc.budget .plea = none ∧
      (∀ b, kindOf b = (0x3 : BitVec 4) → (payloadOf b).length ≠ 1) := by
  refine ⟨by decide, by decide +kernel, by decide +kernel, by decide +kernel, by decide +kernel, by decide, by decide,
    rfl, rfl, by decide, rfl, by decide, by decide, rfl, rfl, rfl, by decide, by decide, by decide, by decide, ?_⟩
  intro b h
  cases b with
  | claim u => cases u <;> simp [kindOf] at h
  | _ => simp_all [kindOf, payloadOf]

theorem test_met_FramesWithoutAViewUpdateTheRosterAlone :
    (inState .listening pair).pc.presence.keepsView = false ∧ (st (inState .listening pair)).dev.Hears hd5 ∧
      budgetBits 0x81 = pair.pc.budget := by decide

theorem test_met_ReceivedPleasAndIntentsChangeTheView :
    (st pair).dev.pc.presence.keepsView = true ∧ (st pair).dev.Hears hd5 := by decide

theorem test_met_ReceivedClaimIsStored :
    (st (withHoldings fullList pair)).dev.Hears hd5 ∧ (withHoldings fullList pair).ht.holdings.length = 32 ∧
      findHolding 5 40 (withHoldings fullList pair).ht.holdings = none := by decide

theorem test_met_ContestIsCountedAlertedAndRepaired :
    pair.pc.presence = .member ∧ (inState .leaving pair).pc.presence ≠ .member := by decide

theorem test_met_ReceivedReleaseAndExtendChangeTheRecord :
    findHolding 5 1 (withHoldings [peer 1 .rfb] pair).ht.holdings = some (peer 1 .rfb) ∧
      findHolding 5 2 (withHoldings [peer 1 .rfb] pair).ht.holdings = none ∧
      (peer 1 .rfb).holder = .peer 100 (100 + leaseTime .rfb + us 2000) ∧
      (peer 1 .rfb).extensions.toNat ≤ (1 : Byte).toNat ∧
      ({ peer 1 .rfb with extensions := 2 } : Holding).extensions.toNat ≤ (2 : Byte).toNat ∧
      (1 : Byte).toNat < ({ peer 1 .rfb with extensions := 2 } : Holding).extensions.toNat ∧
      ((0 : Byte) ≠ 1 ∧ (0 : Byte) ≠ 2) ∧ ((3 : Byte) ≠ 1 ∧ (3 : Byte) ≠ 2) := by decide

/-- A station that collects answers. -/
def collecting : Dev :=
  Dev.openWindow { inState .syncing pair with pc.syncCause := some .join }

theorem test_met_ReceivedHoldingConfirmsOrStores :
    (pair.pc.window = none ∧
      collecting.pc.window = some { ends := us 4000, tallies := Vector.replicate 16 Tally.fresh }) ∧
    (3 : Byte) = nat8 (Cls.units .rfb) ∧ (2 : Byte).toNat ≠ Cls.units .rfb ∧ 3 < (4 : Byte).toNat ∧
      (withHoldings [peer 1 .rfb] pair).ht.holdings.length < 32 ∧ 32 ≤ (withHoldings fullList pair).ht.holdings.length ∧
      findHolding 5 40 (withHoldings fullList pair).ht.holdings = none ∧
      findHolding 5 1 (withHoldings [peer 1 .rfb] pair).ht.holdings = some (peer 1 .rfb) := by decide

theorem test_met_ReceivedSummaryRebuildsTheView :
    (st collecting).dev.pc.presence.keepsView = true ∧ (st collecting).dev.Hears hd5 ∧
      budgetBits 0x01 = collecting.pc.budget ∧ collecting.pc.presence = .syncing ∧
      collecting.pc.window = some { ends := us 4000, tallies := Vector.replicate 16 Tally.fresh } ∧
      (inState .syncing pair).pc.window = none ∧ pair.pc.presence ≠ .syncing ∧
      ((10 : Word16) - 4).toNat < ((10 : Word16) - 3).toNat ∧ (1 : Station) ≤ 5 ∧
      (((10 : Word16) - 4).toNat = ((10 : Word16) - 4).toNat ∧ (5 : Station) < 6) ∧
      ¬ ((6 : Word16).toNat > (7 : Word16).toNat) ∧ (7 : Word16).toNat ≠ (6 : Word16).toNat := by decide +kernel

theorem test_met_ReceivedResyncAndBeaconRepairTheView :
    (st pair).dev.Hears hd5 ∧ pair.pc.presence = .member ∧ budgetBits 0x01 = pair.pc.budget ∧
      (0x01 : Byte).getLsbD 7 = false ∧ pair.ht.digest ≠ 0 ∧ (pair.pc.rosterAt 5).mismatch = 0 ∧
      1 ≤ ((pair.modRoster 5 (fun r => { r with mismatch := 1 })).pc.rosterAt 5).mismatch ∧
      (inState .joining pair).pc.presence ≠ .member ∧ (st (inState .joining pair)).dev.Hears hd5 := by decide +kernel

theorem test_met_ReceivedJoinAndLeaveDropTheSendersPart :
    (st (knows .silent member)).dev.HearsJoin hd5 ∧ budgetBits 1 = member.pc.budget ∧ (st pair).dev.Hears hd5 ∧
      (inState .joining pair).pc.presence.keepsView = false ∧ pair.pc.presence.keepsView = true ∧
      pair.ht.mentions 5 = false ∧ (withHoldings [peer 1 .rfb] pair).ht.mentions 5 = true ∧
      pair.pc.window = none ∧ collecting.pc.window.isSome = true := by decide

theorem test_met_ConfigurationFaultsAreEntered :
    (st pair).dev.pc.presence.keepsRoster = true ∧ (st pair).dev.HearsJoin hd5 ∧ (st pair).dev.Hears hd5 ∧
      (2 : Byte) ≠ 1 ∧ budgetBits 0 ≠ pair.pc.budget ∧
      frameOf (.pleaReceived 0 { hd5 with station := 2 }) = some (0, { hd5 with station := 2 }, .plea) ∧
      ({ hd5 with station := 2 } : Head).station = pair.pc.station ∧ Body.plea.costOk = true ∧
      -- emptying the outbox: nothing in hand, another frame between attempts or under way, the claim in each stage
      pair.biu.inHand = none ∧ waiting.biu.stagedClaim = some (claimOf .rfb none) ∧
      (∀ f ∈ pleading.biu.inHand, f.ref ≠ .claim) ∧ pleading.Sends (sends .plea .plea) ∧
      ({ sends .plea .plea with sending := false, sends := 1 } : InHand).sending = false ∧
      claiming.Sends (sends .claim (claimOf .rfb none).body) ∧
      claiming.biu.outbox.claim = some (claimOf .rfb none) ∧
      (let between := fun (x : Bool) (c : Claim) =>
        (after (.frameBearingOwnNumber 0) (withFrame
          { sends .claim (claimOf .scb (some 4)).body with sending := false, sends := 1, delivered := x } (withClaim c
            (withQueue [{ entryOf 4 .scb with staged := true }] pair)))).pu.notices
      let faults : List Notice := [.state .configFault, .alert (.configFault .duplicateStation)]
      between true (claimOf .scb (some 4)) = faults ∧
        between false { claimOf .scb (some 4) with cancel := true } = faults ++ [.cancelled 4]) := by decide

theorem test_met_PresenceTimersMoveTheStation :
    (st (after (.resetRelease 0 2 ⟨1, false⟩) (Dev.held .powerOn))).dev.Up ∧
      (after (.resetRelease 0 2 ⟨1, false⟩) (Dev.held .powerOn)).pc.listenEnds = some (us 6000) ∧
      collecting.pc.window.isSome = true ∧ ({ pair with pc.beaconEnds := some 800 } : Dev).pc.beaconEnds = some 800 ∧
      (pair.pc.listenEnds = none ∧ pair.pc.window = none ∧ pair.pc.beaconEnds = none) ∧
      ((inState .leaving pair).pc.presence = .leaving ∧ (∀ h ∈ pair.ht.holdings, h.isOwn = false) ∧
        pair.biu.outbox.release = [] ∧ pair.biu.outbox.claim = none ∧
        pair.biu.outbox.joinLeave.holds .leave = false) := by decide

theorem test_met_EntryIntoMemberReleasesWhatWaited :
    (pair.pc.window = none ∨ pair.pc.presence ≠ .syncing) ∧ collecting.pc.presence = .syncing ∧
      collecting.pc.window = some { ends := us 4000, tallies := Vector.replicate 16 Tally.fresh } := by decide

theorem test_met_SilenceExpiryAndAgeingDropWhatIsStale :
    (st pair).dev.pc.presence.keepsRoster = true ∧ (5 : Station) ≠ pair.pc.station ∧
      (pair.pc.rosterAt 5).state = .member ∧ (pair.pc.rosterAt 5).lastHeard = some 100 ∧
      (pair.pc.rosterAt 6).state ≠ .member ∧
      findHolding 5 1 (withHoldings [peer 1 .rfb] pair).ht.holdings = some (peer 1 .rfb) ∧
      findHolding 2 3 (withHoldings [own 3 .rfb (running none)] pair).ht.holdings = some (own 3 .rfb (running none)) ∧
      (pair.pc.window = none ∧ collecting.pc.window.isSome = true) ∧
      ({ pair with ht.surge := [0] } : Dev).ht.surge = [0] ∧ (List.replicate 15 (0 : Time)).length < 16 ∧
      (List.replicate 16 (0 : Time)) = 0 :: List.replicate 15 0 := by decide

theorem test_met_LeaseExpiryExtendsThenForces :
    (st releasing).dev.Up ∧ releasing.ownHolding? 3 = some (own 3 .rfb (running none)) ∧
      (own 3 .rfb (running none)).holder = .own (running none) ∧ (running none).leaseEnds = some 900 ∧
      ({ running none with period := 2 } : OwnPart).period < 3 ∧
      3 ≤ ({ running none with period := 3 } : OwnPart).period ∧
      (peer 1 .rfb).holder = .peer 100 (100 + leaseTime .rfb + us 2000) := by
  decide

/-- A member whose region 0 owes this much and accrues at 8,000. -/
def owing (debt : Int) : Dev := withRegion 0 (fun r => { r with timer := .running 8000, debt := debt }) member

theorem test_met_AccrualRaisesDebtOrCountsALapse :
    ((owing 7).rs.regionAt 0).timer = .running 8000 ∧
      ((owing 7).rs.regionAt 0).debt < 8 ∧
      8 ≤ ((owing 8).rs.regionAt 0).debt := by decide

theorem test_met_UrgencyFollowsTheGreatestDebt :
    (pair.rs.exemptRegions 0x0F).greatestDebt = 0 ∧ pair.evalUrgency.rs.urgency = pair.rs.urgency ∧
      ({ pair with rs.urgency := .urgent } : Dev).rs.greatestDebt ≤ (pair.rs.endLevel : Int) ∧
      ((withRegion 2 (fun r => { r with debt := 5 }) pair).rs.startLevel : Int) ≤
        (withRegion 2 (fun r => { r with debt := 5 }) pair).rs.greatestDebt ∧
      pair.biu.outbox.claim = none ∧ waiting.biu.outbox.claim = some (claimOf .rfb none) ∧
      (withClaim (claimOf .scb (some 4)) pair).biu.stagedClaim = some (claimOf .scb (some 4)) ∧
      (withFrame (sends .claim (claimOf .scb (some 4)).body) (withClaim (claimOf .scb (some 4)) pair)).biu.inHandIs
        .claim = true := by decide

/-- A member at the head of the calibration queue. -/
def atHead : Dev := { pair with ht.calQueue := [(2, 7)], ht.headTimer := some 500 }

theorem test_met_HeadAndSelectionTimersRunTheirCourse :
    (st atHead).dev.Up ∧ atHead.ht.headTimer = some 500 ∧ atHead.headAsMember = true ∧ pair.headAsMember = false ∧
      (atHead.biu.placeIntent .withdraw).outbox.intent.holds .withdraw = true ∧
      atHead.biu.outbox.intent.holds .withdraw = false ∧ atHead.biu.outbox.intent.holds .requeue = false ∧
      ({ pair with oqs.selTimer := some 400 } : Dev).oqs.selTimer = some 400 ∧
      Dev.SelectionDue pair (selecting (-8) []) ∧ Dev.SelectionDue taking pair ∧ waiting.biu.outbox.claim ≠ none ∧
      ¬ Dev.SelectionDue pair pair ∧
      (Dev.close pair (blocked (-8))).biu.outbox.claim = (blocked (-8)).biu.outbox.claim ∧
      (Dev.close pair { selecting (-8) [] with ht.surge := List.replicate 12 0 }).oqs.selTimer ≠ none := by
  unfold Dev.SelectionDue; decide

theorem test_met_DeadlineRemovesOrMarksTheEntry :
    (st (withQueue [entryOf 4 .scb] pair)).dev.Up ∧
      (withQueue [entryOf 4 .scb] pair).oqs.entry? 4 = some (entryOf 4 .scb) ∧
      (entryOf 4 .scb).overdue = false ∧ (entryOf 4 .scb).deadline = some 4000 ∧ (entryOf 4 .scb).staged = false ∧
      ({ entryOf 4 .scb with staged := true } : Entry).staged = true ∧ pair.biu.claimSending = false ∧
      claiming.biu.claimSending = true ∧
      (withQueue [entryOf 1 .scb, { entryOf 4 .cal with intent := true }, entryOf 5 .cal] pair).oqs.queue =
        [entryOf 1 .scb] ++ { entryOf 4 .cal with intent := true } :: [entryOf 5 .cal] ∧
      (∀ x ∈ [entryOf 1 .scb] ++ [entryOf 5 .cal], x.tag ≠ 4) ∧ (∀ x ∈ [entryOf 1 .scb] ++ [], x.cls ≠ .cal) ∧
      [entryOf 1 .scb] ++ [entryOf 5 .cal] = [entryOf 1 .scb] ++ entryOf 5 .cal :: [] := by decide

theorem test_met_LinkFaultIsEnteredAndRecovered :
    pair.pc.presence = .member ∧ pair.settled = true ∧ pair.biu.attempting = false ∧
      (withHoldings [own 3 .rfb (running none)] pair).settled = false ∧ pleading.biu.attempting = true ∧
      (inState .detached pair).pc.presence ≠ .member ∧ (inState .linkFault pair).pc.presence = .linkFault ∧
      (inState .linkFault pair).settled = true ∧ waiting.biu.stagedClaim.isSome = true ∧
      pair.biu.stagedClaim = none ∧
      -- two CANCELLING holdings end with the clear
      (withHoldings [own 3 .scb { running (some 4) with goSent := false },
        own 6 .cal { running (some 7) with goSent := false }] pair).cancellingTags = [4, 7] := by decide

/-- What a SUBMIT answers with. -/
def answerTo (c : Instr) (d : Dev) : List Notice := (after c d).pu.notices

theorem test_met_SubmitIsRefusedInOrderOrAccepted :
    (st faulted).dev.TakesTransfers ∧ answerTo (.submit 0 4 9 9 0) faulted = [.refuse .submit (some 4) .faulted] ∧
      answerTo (.submit 0 4 9 9 0) { pair with rs.hold := true } = [.refuse .submit (some 4) .held] ∧
      answerTo (.submit 0 4 0 0 0) pair = [.refuse .submit (some 4) .badField] ∧
      answerTo (.submit 0 4 3 4 0) pair = [.refuse .submit (some 4) .badField] ∧
      answerTo (.submit 0 4 2 1 0) (withRegion 1 Region.makeExempt pair) = [.refuse .submit (some 4) .exemptRegion] ∧
      answerTo (.submit 0 4 1 9 0) (withQueue [entryOf 4 .scb] pair) = [.refuse .submit (some 4) .duplicateTag] ∧
      answerTo (.submit 0 9 1 9 0) (withQueue ((List.range 8).map (fun n => entryOf (BitVec.ofNat 8 n) .scb)) pair) =
        [.refuse .submit (some 9) .full] ∧
      answerTo (.submit 0 4 3 3 1) pair = [.accept 4] := by decide

theorem test_met_CancelActsByTheEntrysStage :
    (st pair).dev.TakesTransfers ∧ pair.oqs.entry? 4 = none ∧
      (withHoldings [own 3 .scb (running (some 4))] pair).ownHoldings.find?
        (fun h => h.part.bind OwnPart.tag == some 4) = some (own 3 .scb (running (some 4))) ∧
      ((own 3 .scb (running (some 4))).part.map OwnPart.goSent).getD false = true ∧
      ((own 3 .scb { running (some 4) with goSent := false }).part.map OwnPart.goSent).getD false = false ∧
      (∀ h ∈ pair.ownHoldings, h.part.bind OwnPart.tag ≠ some 4) ∧
      (withQueue [{ entryOf 4 .scb with staged := true }] claiming).oqs.entry? 4 =
        some { entryOf 4 .scb with staged := true } ∧
      claiming.biu.claimSending = true ∧ claiming.biu.outbox.claim = some (claimOf .rfb none) ∧
      pair.biu.claimSending = false := by decide

theorem test_met_DoneIsAnsweredByTheFirstCaseThatFits :
    (st releasing).dev.TakesTransfers ∧ 3 ≤ (3 : Byte).toNat ∧ (2 : Byte).toNat < 3 ∧
      DoneOutcome.ofCode 2 = some .aborted ∧
      ({ pair with ht.forced := [(3, some 4)] } : Dev).ht.forced.find? (fun f => f.1 == 3) = some (3, some 4) ∧
      releasing.ht.forced = [] ∧ releasing.ownHolding? 3 = some (own 3 .rfb (running none)) ∧
      (own 3 .rfb (running none)).holder = .own (running none) ∧ (running none).state = .running ∧
      ({ running none with period := 2 } : OwnPart).state = .overrun ∧
      ({ running none with done := some .ok } : OwnPart).state = .releasing ∧ pair.ownHolding? 3 = none := by
  decide +kernel

theorem test_met_HoldAndResumeStopAndRestartAccrual :
    (st member).dev.TakesTransfers ∧ member.rs.hold = false ∧ ({ member with rs.hold := true } : Dev).rs.hold = true ∧
      member.biu.outbox.claim = none ∧ waiting.biu.stagedClaim = some (claimOf .rfb none) ∧
      claiming.biu.outbox.claim = some (claimOf .rfb none) ∧ claiming.biu.inHandIs .claim = true := by decide

theorem test_met_LeaveAndRejoinAreTakenInTheirStates :
    (st member).dev.TakesTransfers ∧ member.pc.presence = .member ∧ (inState .syncing member).pc.presence ≠ .member ∧
      (inState .detached member).pc.presence = .detached ∧ member.pc.presence ≠ .detached ∧
      (inState .leaving member).pc.presence = .leaving ∧ waiting.biu.stagedClaim.isSome = true ∧
      member.biu.stagedClaim = none := by decide

theorem test_met_QueryIsAnsweredWithAReply :
    (st member).dev.TakesTransfers ∧ (7 : Byte).toNat < 8 ∧ ¬ (8 : Byte).toNat < 8 ∧ (3 : Byte).toNat < 4 ∧
      (1 : Byte).toNat < 2 ∧ 5 < (6 : Byte).toNat ∧
      answerTo (.queryTable 0 8) member = [.refuse .query none .badField] ∧
      waiting.biu.openClaim = some (claimOf .rfb none) ∧
      (withClaim (claimOf .scb (some 4)) pair).biu.openClaim = some (claimOf .scb (some 4)) ∧
      pair.biu.openClaim = none ∧ (entryOf 4 .scb).bypass ≤ 4 ∧
      ({ pair with ht.calQueue := [(2, 7)] } : Dev).ht.calQueue = [] ++ (2, 7) :: [] ∧
      (∀ x ∈ pair.ht.calQueue, x.1 ≠ pair.pc.station) ∧
      (own 3 .rfb (running none)).holder = .own (running none) :=
  ⟨by decide, by decide, by decide, by decide, by decide, by decide, by decide, by decide, by decide, by decide,
    by decide, rfl, nofun, rfl⟩

theorem test_met_TakeAndPeekReadTheNotices :
    (st member).dev.TakesTransfers ∧ member.pu.notices = [] ∧ (withNotices 1 member).pu.notices = .accept 1 :: [] ∧
      2 < (Notice.accept 1).bytes.length ∧ (Notice.accept 1).bytes.length ≤ 3 ∧
      ¬ (withNotices 16 member).pu.notices.length < 16 ∧ ¬ claiming.pu.notices.length < 15 ∧
      (2 : Nat) ≠ 0 ∧ taking.pu.takeLeft ≠ 0 ∧ member.pu.takeLeft = 0 ∧
      Request.ofPut [2, 6, 0] = none ∧ (withNotices 14 member).pu.notices.length < 15 ∧
      (withNotices 16 member).summary = [16, 0x40] := by decide

theorem test_met_NoticesJoinAndAreLaidOutAsListed :
    (withNotices 15 member).pu.notices.length < 16 ∧ ¬ claiming.pu.notices.length < 15 ∧ claiming.PortSound ∧
      claiming.pu.goReserved = true ∧ Cls.scb ≠ Cls.rfb ∧
      -- no TAKE under way; one that ends behind the next notice, with or without a reserved place; one that goes on
      member.pu.takeLeft = 0 ∧ taking.pu.takeLeft = 1 ∧ taking.pu.notices.length = 16 ∧
      ({ claiming with pu.takeLeft := 1 } : Dev).pu.notices.length = 15 ∧
      ({ taking with pu.takeLeft := 3 } : Dev).pu.takeLeft = 1 + 2 := by
  refine ⟨by decide, by decide, test_met_NoticeQueueInvariantKept.1, by decide, by decide, by decide, by decide,
    by decide, by decide, by decide⟩

theorem test_met_TransfersAreReadCountedOrIgnored :
    (st member).dev.TakesTransfers ∧ Request.ofPut [0] = none ∧ (0xE0 : Byte) ≠ 0xE1 ∧ (0xE0 : Byte) ≠ 0xE2 ∧
      (0xE4 : Byte) ≠ 0xE3 ∧ (st { member with pu.csLow := true }).dev.Up ∧
      ({ member with pu.csLow := true } : Dev).pu.csLow = true ∧ isTransfer (.peek 4 2) = true ∧
      timeOf (.peek 4 2) = some 4 := by decide

theorem test_met_DigestIsTheCrcOfTheListing :
    ([{ peer 9 .rfb with station := 5 }, { peer 1 .cal with station := 12 }] : List Holding).map
        (fun h => (h.station, h.handle, h.cls)) = [(5#4, 9#8, Cls.rfb), (12#4, 1#8, Cls.cal)] ∧
      (∀ x, inMask (maskBit 12) x = true ↔ x = 12#4) ∧
      ([(12, 4), (2, 9)] : List (Station × Word16)).map Prod.fst = [12#4, 2#4] := by decide

end Sys2Proof.Tests
end

section
/-! PROOFS. How the commands of the budget bus act: with an attempt under way, and without one (log 4). -/

namespace Sys2Proof.BudgetBus

open Sys2Proof.Machine Sys2Proof.Laws

/-! ### Whether an attempt is under way -/

theorem attempting_of_inHand {b : Biu} {f : InHand} (h : b.inHand = some f) : b.attempting = f.sending := by
  simp [Biu.attempting, h]

theorem attempting_of_empty {b : Biu} (h : b.inHand = none) : b.attempting = false := by
  simp [Biu.attempting, h]

theorem attempting_of_sends {d : Dev} {f : InHand} (h : d.Sends f) : d.biu.attempting = true :=
  (attempting_of_inHand h.1).trans h.2

/-! ### The commands of the own frames -/

variable {s : State} {dt : Time} {r : Dev}

theorem exec_busFree_acts (hu : s.dev.Up) (h : s.dev.biu.attempting = false) (hr : (s.dev.elapse dt).busFree = r) :
    exec (.busFree dt) s = .next (s.after dt r) :=
  hr ▸ answer_can s dt _ Dev.busFree hu (by simp [h])

theorem exec_busFree_passes (h : s.dev.biu.attempting = true) :
    exec (.busFree dt) s = .next { s with dev := s.dev.elapse dt } :=
  answer_cannot s dt _ Dev.busFree (by simp [h])

theorem exec_arbitrationLoss_acts (hu : s.dev.Up) (h : s.dev.biu.attempting = true)
    (hr : (s.dev.elapse dt).arbitrationLost = r) : exec (.arbitrationLoss dt) s = .next (s.after dt r) :=
  hr ▸ answer_can s dt _ Dev.arbitrationLost hu h

theorem exec_arbitrationLoss_passes (h : s.dev.biu.attempting = false) :
    exec (.arbitrationLoss dt) s = .next { s with dev := s.dev.elapse dt } :=
  answer_cannot s dt _ Dev.arbitrationLost h

theorem exec_bitError_acts (hu : s.dev.Up) (h : s.dev.biu.attempting = true) (hr : (s.dev.elapse dt).bitError = r) :
    exec (.bitError dt) s = .next (s.after dt r) :=
  hr ▸ answer_can s dt _ Dev.bitError hu h

theorem exec_bitError_passes (h : s.dev.biu.attempting = false) :
    exec (.bitError dt) s = .next { s with dev := s.dev.elapse dt } :=
  answer_cannot s dt _ Dev.bitError h

theorem exec_sendComplete_acts {a1 a2 : Byte} (hu : s.dev.Up) (h : s.dev.biu.attempting = true)
    (hr : (s.dev.elapse dt).sendComplete (ackSlots a1 a2) = r) :
    exec (.sendComplete dt ⟨a1, a2⟩) s = .next (s.after dt r) :=
  hr ▸ answer_can s dt _ (Dev.sendComplete (ackSlots a1 a2)) hu h

theorem exec_sendComplete_passes {a1 a2 : Byte} (h : s.dev.biu.attempting = false) :
    exec (.sendComplete dt ⟨a1, a2⟩) s = .next { s with dev := s.dev.elapse dt } :=
  answer_cannot s dt _ (Dev.sendComplete (ackSlots a1 a2)) h

end Sys2Proof.BudgetBus
end

section
/-! PROOFS. BUS_FREE: which frame the BIU offers, and what its attempt leaves (R29, R32, R40, R46). -/

namespace Sys2Proof.BudgetBus

open Sys2Proof.Machine Sys2Proof.Laws

/-! ### The kinds of the offers (R30, R42) -/

section Kinds

variable {d : Dev} {o : Offer}

theorem release_kind (h : d.biu.outbox.offerRelease = some o) : kindOf o.body = 0 := by
  obtain ⟨r, -, rfl⟩ := Option.map_eq_some_iff.mp h
  rfl

theorem extend_kind (h : d.biu.outbox.offerExtend = some o) : kindOf o.body = 1 := by
  obtain ⟨e, -, h⟩ := Option.bind_eq_some_iff.mp h
  obtain ⟨c, -, rfl⟩ := Option.map_eq_some_iff.mp h
  rfl

theorem claim_kind {urgent : Bool} (h : d.offerClaim urgent = some o) :
    kindOf o.body = if urgent then 2 else 5 := by
  unfold Dev.offerClaim at h
  split_ifs at h
  obtain ⟨c, -, h⟩ := Option.bind_eq_some_iff.mp h
  split_ifs at h with hu
  cases h
  subst hu
  cases hc : c.urgent <;> simp [Claim.body, hc, kindOf]

theorem plea_kind (h : d.biu.outbox.offerPlea = some o) : kindOf o.body = 3 ∨ kindOf o.body = 4 := by
  obtain ⟨c, -, rfl⟩ := Option.map_eq_some_iff.mp h
  rcases c with ⟨k, q⟩
  cases k
  · exact Or.inl rfl
  · exact Or.inr rfl

theorem intent_kind (h : d.offerIntent = some o) : kindOf o.body = 6 := by
  unfold Dev.offerIntent at h
  split_ifs at h
  obtain ⟨c, -, rfl⟩ := Option.map_eq_some_iff.mp h
  rcases c with ⟨a, q⟩
  cases a <;> rfl

theorem holding_kind (h : d.offerHolding = some o) : kindOf o.body = 7 := by
  unfold Dev.offerHolding at h
  split_ifs at h
  obtain ⟨f, -, h⟩ := List.exists_of_findSome?_eq_some h
  obtain ⟨x, -, h⟩ := Option.bind_eq_some_iff.mp h
  obtain ⟨p, -, rfl⟩ := Option.map_eq_some_iff.mp h
  rfl

theorem summary_kind (h : d.offerSummary = some o) : kindOf o.body = 8 := by
  obtain ⟨q, -, rfl⟩ := Option.map_eq_some_iff.mp h
  rfl

theorem resync_kind (h : d.biu.outbox.offerResync = some o) : kindOf o.body = 9 := by
  obtain ⟨c, -, rfl⟩ := Option.map_eq_some_iff.mp h
  rfl

theorem beacon_kind (h : d.offerBeacon = some o) : kindOf o.body = 10 := by
  obtain ⟨c, -, rfl⟩ := Option.map_eq_some_iff.mp h
  rfl

theorem join_kind (h : d.offerJoin .join = some o) : kindOf o.body = 11 := by
  obtain ⟨c, -, h⟩ := Option.bind_eq_some_iff.mp h
  split_ifs at h
  cases h
  rfl

theorem leave_kind (h : d.offerJoin .leave = some o) : kindOf o.body = 12 := by
  obtain ⟨c, -, h⟩ := Option.bind_eq_some_iff.mp h
  split_ifs at h
  cases h
  rfl

end Kinds

/-! ### The lowest kind comes first (R46) -/

/-- The kind code of an offer. -/
def kindCode (o : Offer) : Nat := (kindOf o.body).toNat

/-- From `low` on, each possible offer of the list has a kind code no lower than every one before it. -/
def Ascending : Nat → List (Option Offer) → Prop
  | _, [] => True
  | low, x :: xs => ∃ high, low ≤ high ∧ (∀ o, x = some o → low ≤ kindCode o ∧ kindCode o ≤ high) ∧ Ascending high xs

theorem Ascending.low_le {low : Nat} {l : List (Option Offer)} (h : Ascending low l) :
    ∀ o ∈ l.filterMap id, low ≤ kindCode o := by
  induction l generalizing low with
  | nil => simp
  | cons x xs ih =>
    obtain ⟨high, hle, hx, hxs⟩ := h
    have rest : ∀ o ∈ xs.filterMap id, low ≤ kindCode o := fun o ho => hle.trans (ih hxs o ho)
    cases x with
    | none => exact rest
    | some a => exact List.forall_mem_cons.mpr ⟨(hx a rfl).1, rest⟩

/-- The first offer that an ascending list holds is of the lowest kind among all it holds. -/
theorem Ascending.head_le {low : Nat} {l : List (Option Offer)} {o : Offer} (h : Ascending low l)
    (ho : (l.filterMap id).head? = some o) : ∀ o' ∈ l.filterMap id, kindCode o ≤ kindCode o' := by
  induction l generalizing low with
  | nil => simp
  | cons x xs ih =>
    obtain ⟨high, -, hx, hxs⟩ := h
    cases x with
    | none => exact ih hxs ho
    | some a =>
      obtain rfl : a = o := Option.some.inj ho
      exact List.forall_mem_cons.mpr ⟨le_rfl, fun o' h' => (hx a rfl).2.trans (hxs.low_le o' h')⟩

/-- What each slot would offer, in the order in which the BIU looks at them. -/
def slotOffers (d : Dev) : List (Option Offer) :=
  [d.biu.outbox.offerRelease, d.biu.outbox.offerExtend, d.offerClaim true, d.biu.outbox.offerPlea, d.offerClaim false,
   d.offerIntent, d.offerHolding, d.offerSummary, d.biu.outbox.offerResync, d.offerBeacon, d.offerJoin .join,
   d.offerJoin .leave]

theorem candidates_eq (d : Dev) : d.candidates = (slotOffers d).filterMap id := rfl

/-- An offer of one fixed kind code extends an ascending list. -/
theorem Ascending.cons {low k : Nat} {x : Option Offer} {xs : List (Option Offer)} (hle : low ≤ k)
    (hx : ∀ o, x = some o → kindCode o = k) (h : Ascending k xs) : Ascending low (x :: xs) :=
  ⟨k, hle, fun o ho => by rw [hx o ho]; exact ⟨hle, le_rfl⟩, h⟩

/-- The BIU looks at the slots in ascending order of kind; PLEA and CLEAR share one. -/
theorem slotOffers_ascending (d : Dev) : Ascending 0 (slotOffers d) := by
  refine .cons le_rfl (fun o h => congrArg BitVec.toNat (release_kind h)) ?_
  refine .cons (by decide) (fun o h => congrArg BitVec.toNat (extend_kind h)) ?_
  refine .cons (by decide) (fun o h => congrArg BitVec.toNat (claim_kind h)) ?_
  refine ⟨4, by decide, fun o h => ?_, ?_⟩
  · rcases plea_kind h with hk | hk <;> simp [kindCode, hk]
  refine .cons (by decide) (fun o h => congrArg BitVec.toNat (claim_kind h)) ?_
  refine .cons (by decide) (fun o h => congrArg BitVec.toNat (intent_kind h)) ?_
  refine .cons (by decide) (fun o h => congrArg BitVec.toNat (holding_kind h)) ?_
  refine .cons (by decide) (fun o h => congrArg BitVec.toNat (summary_kind h)) ?_
  refine .cons (by decide) (fun o h => congrArg BitVec.toNat (resync_kind h)) ?_
  refine .cons (by decide) (fun o h => congrArg BitVec.toNat (beacon_kind h)) ?_
  refine .cons (by decide) (fun o h => congrArg BitVec.toNat (join_kind h)) ?_
  exact .cons (by decide) (fun o h => congrArg BitVec.toNat (leave_kind h)) trivial

theorem head_filterMap_cons (x : Option Offer) (xs : List (Option Offer)) :
    ((x :: xs).filterMap id).head? = x.or (xs.filterMap id).head? := by
  cases x <;> rfl

/-- The frame the BIU offers is the first of those it could offer. -/
theorem firstOffer_eq (d : Dev) : d.firstOffer = d.candidates.head? := by
  simp only [candidates_eq, slotOffers, head_filterMap_cons, List.filterMap_nil, List.head?_nil, Option.or_none,
    Dev.firstOffer, Option.orElse_eq_orElse, Option.orElse_eq_or]

theorem firstOffer_lowest {d : Dev} {o : Offer} (h : d.firstOffer = some o) :
    o ∈ d.candidates ∧ ∀ o' ∈ d.candidates, (kindOf o.body).toNat ≤ (kindOf o'.body).toNat := by
  rw [firstOffer_eq] at h
  exact ⟨List.mem_of_head? h, (slotOffers_ascending d).head_le h⟩

/-! ### What BUS_FREE does -/

/-- The part as BUS_FREE finds it, the line silent and the STAGED claim tested (R51). -/
def tested (d : Dev) : Dev := Dev.retest { d with biu.busFree := true, biu.line := .silent }

@[simp] theorem tested_inHand (d : Dev) : (tested d).biu.inHand = d.biu.inHand := retest_inHand _

theorem busFree_repeat {d : Dev} {f : InHand} (h : d.biu.inHand = some f) :
    d.busFree = if (tested d).mayRepeat f then (tested d).startRepeat f else tested d := by
  have : (tested d).biu.inHand = some f := by rw [tested_inHand, h]
  unfold Dev.busFree
  rw [← tested]
  simp only [this]

theorem busFree_nothing {d : Dev} (h : d.biu.inHand = none)
    (hn : (tested d).offering = false ∨ (tested d).firstOffer = none) : d.busFree = tested d := by
  have hi : (tested d).biu.inHand = none := by rw [tested_inHand, h]
  unfold Dev.busFree
  rw [← tested]
  rcases hn with hn | hn <;> simp only [hi, hn, Bool.false_eq_true, if_false, ite_self]

theorem busFree_starts {d : Dev} {o : Offer} (h : d.biu.inHand = none) (hs : (tested d).offering = true)
    (ho : (tested d).firstOffer = some o) : d.busFree = (tested d).startAttempt o := by
  have hi : (tested d).biu.inHand = none := by rw [tested_inHand, h]
  unfold Dev.busFree
  rw [← tested]
  simp only [hi, hs, ho, if_true]

/-- The outbox is served, and not in LINK_FAULT once the own holdings have settled (R79, R100, log 15). -/
theorem offering_iff (d : Dev) :
    d.offering = true ↔ d.pc.presence.serves = true ∧ ¬ (d.pc.presence = .linkFault ∧ d.settled = true) := by
  simp [Dev.offering, Dev.recovering, imp_iff_not_or]

theorem mayRepeat_iff (d : Dev) (f : InHand) :
    d.mayRepeat f = true ↔ d.offering = true ∨ (d.pc.presence = .detached ∧ f.ref = .joinLeave) := by
  simp [Dev.mayRepeat]

/-- What the first attempt of an offered frame leaves (R29, R32, R59). -/
theorem startAttempt_eq (o : Offer) (d : Dev) : d.startAttempt o = { d with
    biu.seqCtr := if o.seq = none then d.biu.seqCtr + 1 else d.biu.seqCtr,
    biu.outbox := d.biu.outbox.number o.ref (o.seq.getD d.biu.seqCtr),
    biu.inHand := some { ref := o.ref, body := o.body, seq := o.seq.getD d.biu.seqCtr,
                         patience := patienceOf d.biu.losses, fresh := true, sending := true, sends := 0, acked := 0,
                         delivered := false },
    biu.line := .sending (drivenBytes (patienceOf d.biu.losses) true d.pc.station (o.seq.getD d.biu.seqCtr) o.body),
    biu.busFree := false,
    pu.goReserved := d.pu.goReserved || o.ref == .claim } := by
  rcases o with ⟨ref, body, _ | q⟩ <;> rfl

/-- What the attempt of a repeat leaves (R32, R40). -/
theorem startRepeat_eq (f : InHand) (d : Dev) : d.startRepeat f = { d with
    biu.inHand := some { f with sending := true, patience := patienceOf d.biu.losses, fresh := false },
    biu.line := .sending (drivenBytes (patienceOf d.biu.losses) false d.pc.station f.seq f.body),
    biu.busFree := false } := rfl

/-- Settles O19, by the order in which the BIU looks at its slots. -/
theorem freeBusOffersTheLowestKind : Obligations.FreeBusOffersTheLowestKind := by
  intro s dt hu d patience open'
  have hoff : d.offering = true ↔ open' := offering_iff d
  refine ⟨fun hn hno => ?nothing, fun hn hopen hc => ?starts, fun f hf hs => ?repeats, fun f hf => ?busy⟩
  case nothing =>
    refine exec_busFree_acts hu (attempting_of_empty hn) (busFree_nothing hn (hno.imp (fun h => ?_) (fun h => ?_)))
    · exact Bool.eq_false_iff.mpr (mt hoff.mp h)
    · rw [firstOffer_eq]; exact congrArg List.head? h
  case starts =>
    obtain ⟨o, ho⟩ : ∃ o, d.firstOffer = some o := by
      rw [firstOffer_eq]; exact ⟨_, List.head?_eq_some_head hc⟩
    obtain ⟨hmem, hlow⟩ := firstOffer_lowest ho
    have hst : (s.dev.elapse dt).busFree = d.startAttempt o := busFree_starts hn (hoff.mpr hopen) ho
    exact ⟨o, hmem, hlow, exec_busFree_acts hu (attempting_of_empty hn) (hst.trans (startAttempt_eq o d))⟩
  case repeats =>
    have hst : (s.dev.elapse dt).busFree = if d.mayRepeat f then d.startRepeat f else d := busFree_repeat hf
    have hmay : d.mayRepeat f = true ↔ open' ∨ d.pc.presence = .detached ∧ f.ref = .joinLeave := by
      rw [mayRepeat_iff, hoff]
    exact exec_busFree_acts hu ((attempting_of_inHand hf).trans hs) (hst.trans (if_congr hmay (startRepeat_eq f d) rfl))
  case busy => exact exec_busFree_passes (attempting_of_sends hf)

end Sys2Proof.BudgetBus
end

section
/-! PROOFS. ARBITRATION_LOSS and BIT_ERROR: the counts, and what becomes of the frame (R31 to R34, R45, R52, R53). -/

namespace Sys2Proof.BudgetBus

open Sys2Proof.Machine Sys2Proof.Laws

/-! ### The counts (R32, R34) -/

/-- The part as the end of an attempt leaves it after a bus error, with this run of errors counted (R33, R34). -/
def errorCounted (n : Nat) (d : Dev) : Dev :=
  Dev.attemptFailed { d with biu.consecErrors := n, biu.totalErrors := inc16 d.biu.totalErrors, biu.line := .abort }

theorem bitError_below {d : Dev} (h : d.biu.consecErrors < 15) :
    d.bitError = errorCounted (d.biu.consecErrors + 1) d := by
  have hn : ¬ Config.errorRun ≤ d.biu.consecErrors + 1 := by unfold Config.errorRun; omega
  unfold Dev.bitError
  simp only [if_neg hn]
  rfl

theorem bitError_sixteenth {d : Dev} (h : d.biu.consecErrors = 15) :
    d.bitError = Dev.linkFault .busErrors (errorCounted 0 d) := by
  have hn : Config.errorRun ≤ d.biu.consecErrors + 1 := by rw [h]; decide
  unfold Dev.bitError
  simp only [if_pos hn]
  rfl

/-! ### The frame after a lost or aborted attempt (R45, R52, R53) -/

section Failed

variable {d : Dev} {f : InHand}

theorem attemptFailed_configFault (h : d.biu.inHand = some f) (hp : d.pc.presence = .configFault) :
    d.attemptFailed = d.leaveSlot f := by
  unfold Dev.attemptFailed
  simp only [h, if_pos hp]

theorem attemptFailed_committed (h : d.biu.inHand = some f) (hp : d.pc.presence ≠ .configFault) (hs : f.sends ≠ 0) :
    d.attemptFailed = { d with biu.inHand := some { f with sending := false } } := by
  unfold Dev.attemptFailed
  simp only [h, if_neg hp, if_neg hs]

theorem attemptFailed_waits (h : d.biu.inHand = some f) (hp : d.pc.presence ≠ .configFault) (hs : f.sends = 0)
    (hr : f.ref ≠ .claim) :
    d.attemptFailed = { d with biu.inHand := none, biu.outbox := d.biu.outbox.backToWaiting f.ref } := by
  unfold Dev.attemptFailed
  simp only [h, if_neg hp, if_pos hs, if_neg hr]

theorem attemptFailed_claim (h : d.biu.inHand = some f) (hp : d.pc.presence ≠ .configFault) (hs : f.sends = 0)
    (hr : f.ref = .claim) : d.attemptFailed = Dev.claimBack { d with biu.inHand := none } := by
  unfold Dev.attemptFailed
  simp only [h, if_neg hp, if_pos hs, if_pos hr]

theorem claimBack_some {c : Claim} (hc : d.biu.outbox.claim = some c) :
    d.claimBack = if d.claimEndsNow c then d.endClaim c else d := by
  unfold Dev.claimBack
  simp only [hc]

end Failed

/-- A tag is overdue where the queue's entry under it is (R163). -/
theorem isOverdue_iff (d : Dev) (t : Byte) :
    d.isOverdue t = true ↔ ∃ e, d.oqs.entry? t = some e ∧ e.overdue = true := by
  unfold Dev.isOverdue
  cases d.oqs.entry? t <;> simp

/-- What calls a claim back outside CONFIG_FAULT: a cancel, an unstaging that waits, its entry's deadline, or the
presence state (R52, R56, R161). -/
theorem claimEndsNow_iff (d : Dev) (c : Claim) (hp : d.pc.presence ≠ .configFault) :
    d.claimEndsNow c = true ↔ c.cancel = true ∨ c.unstageDue = true ∨
      (∃ t e, c.tag = some t ∧ d.oqs.entry? t = some e ∧ e.overdue = true) ∨
      d.pc.presence = .leaving ∨ d.pc.presence = .linkFault := by
  have overdue : (c.tag.map d.isOverdue).getD false = true ↔
      ∃ t e, c.tag = some t ∧ d.oqs.entry? t = some e ∧ e.overdue = true := by
    cases c.tag <;> simp [isOverdue_iff]
  simp only [Dev.claimEndsNow, Bool.or_eq_true, beq_iff_eq, overdue, hp, or_false, or_assoc]

/-- Settles O21: the counts by the bound each has, the frame by where it stands as its attempt ends. -/
theorem lossesAndBusErrorsKeepTheFrame : Obligations.LossesAndBusErrorsKeepTheFrame := by
  refine ⟨⟨fun s dt f hu hf => ?counts, fun s dt a1 a2 hi => ?idle, fun n => rfl⟩, fun d f hf => ?frame⟩
  case counts =>
    have ha := attempting_of_sends hf
    exact ⟨exec_arbitrationLoss_acts hu ha rfl,
      fun h => exec_bitError_acts hu ha (bitError_below (d := s.dev.elapse dt) h),
      fun h => exec_bitError_acts hu ha (bitError_sixteenth (d := s.dev.elapse dt) h)⟩
  case idle => exact ⟨exec_arbitrationLoss_passes hi, exec_bitError_passes hi, exec_sendComplete_passes hi⟩
  case frame =>
    refine ⟨attemptFailed_configFault hf, fun hp hs => attemptFailed_committed hf hp (by omega),
      attemptFailed_waits hf, fun c hp hs hr hc => ?_⟩
    have back : d.attemptFailed = _ := (attemptFailed_claim hf hp hs hr).trans (claimBack_some hc)
    have called := claimEndsNow_iff { d with biu.inHand := none } c hp
    exact ⟨fun hn => back.trans (if_neg (mt called.mp hn)), fun hn => back.trans (if_pos (called.mpr hn))⟩

end Sys2Proof.BudgetBus
end

section
/-! PROOFS. SEND_COMPLETE: a send ends, the frame is delivered or not, and is repeated, finished, dropped or given up
(R39 to R41, R45). -/

namespace Sys2Proof.BudgetBus

open Sys2Proof.Machine Sys2Proof.Laws

/-! ### The end of a send (R39) -/

/-- The part at the end of a send, the counts cleared and the slots noted, before delivery is judged (R32, R34, R39). -/
def sendEnded (acks : BitVec 16) (f : InHand) (d : Dev) : Dev :=
  { d with biu.losses := 0, biu.consecErrors := 0, biu.line := .silent,
           biu.inHand := some (f.sent acks d.pc.memberMask) }

/-- A frame is delivered by a first acknowledgement, or where there is no other member. -/
theorem reached_iff (f : InHand) (members : BitVec 16) :
    f.reached members = true ↔ members = 0 ∨ f.acked &&& members ≠ 0 := by
  simp [InHand.reached]

section Ends

variable {d : Dev} {f : InHand} {acks : BitVec 16}

theorem sendComplete_missed (h : d.biu.inHand = some f) (hd : f.delivered = false)
    (hr : (f.sent acks d.pc.memberMask).reached d.pc.memberMask = false) :
    d.sendComplete acks = (sendEnded acks f d).afterSend := by
  obtain ⟨ref, body, seq, patience, fresh, sending, sends, acked, delivered⟩ := f
  subst hd
  unfold Dev.sendComplete
  simp only [h, hr, Bool.and_false]
  rfl

theorem sendComplete_again (h : d.biu.inHand = some f) (hd : f.delivered = true) :
    d.sendComplete acks = (sendEnded acks f d).afterSend := by
  obtain ⟨ref, body, seq, patience, fresh, sending, sends, acked, delivered⟩ := f
  subst hd
  unfold Dev.sendComplete
  simp only [h]
  rfl

theorem sendComplete_delivers (h : d.biu.inHand = some f) (hd : f.delivered = false)
    (hr : (f.sent acks d.pc.memberMask).reached d.pc.memberMask = true) :
    d.sendComplete acks = Dev.afterSend (Dev.deliver (f.sent acks d.pc.memberMask)
      { sendEnded acks f d with biu.inHand := some { f.sent acks d.pc.memberMask with delivered := true } }) := by
  have hs : (f.sent acks d.pc.memberMask).delivered = false := hd
  unfold Dev.sendComplete
  simp only [h, hs, hr]
  rfl

end Ends

/-! ### What follows a completed send (R40, R41, R45) -/

section Follows

variable {d : Dev} {f : InHand}

theorem afterSend_acknowledged (h : d.biu.inHand = some f) (hm : d.pc.memberMask &&& ~~~f.acked = 0) :
    d.afterSend = d.leaveSlot f := by
  unfold Dev.afterSend
  simp only [h, if_pos hm]

theorem afterSend_repeats (h : d.biu.inHand = some f) (hm : d.pc.memberMask &&& ~~~f.acked ≠ 0) (hs : f.sends ≤ 3) :
    d.afterSend = if d.pc.presence = .configFault then d.leaveSlot f else d := by
  have hmax : f.sends ≤ Config.maxRepeats := hs
  unfold Dev.afterSend
  simp only [h, if_neg hm, if_pos hmax]

theorem afterSend_finishes (h : d.biu.inHand = some f) (hm : d.pc.memberMask &&& ~~~f.acked ≠ 0) (hs : 3 < f.sends)
    (hd : f.delivered = true) : d.afterSend = d.leaveSlot f := by
  have hmax : ¬ f.sends ≤ Config.maxRepeats := Nat.not_le.mpr hs
  unfold Dev.afterSend
  simp only [h, if_neg hm, if_neg hmax, if_pos hd]

theorem afterSend_givesUp (h : d.biu.inHand = some f) (hm : d.pc.memberMask &&& ~~~f.acked ≠ 0) (hs : 3 < f.sends)
    (hd : f.delivered = false) : d.afterSend =
      Dev.linkFault .undelivered (Dev.leaveSlot f { d with biu.undelivered := inc16 d.biu.undelivered }) := by
  have hmax : ¬ f.sends ≤ Config.maxRepeats := Nat.not_le.mpr hs
  unfold Dev.afterSend
  simp only [h, if_neg hm, if_neg hmax, hd, Bool.false_eq_true, if_false]

end Follows

/-- Members of whom none has acknowledged are members that have not all acknowledged. -/
theorem missing_of_unacknowledged {members acked : BitVec 16} (hm : members ≠ 0) (ha : acked &&& members = 0) :
    members &&& ~~~acked ≠ 0 := by
  intro hz
  apply hm
  apply BitVec.eq_of_getLsbD_eq
  intro i hi
  have h1 := congrArg (fun m => m.getLsbD i) ha
  have h2 := congrArg (fun m => m.getLsbD i) hz
  simp only [BitVec.getLsbD_and, BitVec.getLsbD_not, hi, decide_true, Bool.true_and] at h1 h2 ⊢
  cases ha' : acked.getLsbD i <;> simp_all

theorem linkFault_configFault {d : Dev} (c : LinkCause) (h : d.pc.presence = .configFault) : d.linkFault c = d := by
  simp [Dev.linkFault, h, Presence.mayLinkFault]

/-- Settles O22, by whether the send delivers the frame, and by what is still missing after it. -/
theorem sendsAreDeliveredRepeatedOrGivenUp : Obligations.SendsAreDeliveredRepeatedOrGivenUp := by
  refine ⟨fun s dt a1 a2 f hu hf => ?sends, fun e f hf => ⟨afterSend_acknowledged hf, afterSend_repeats hf,
    afterSend_finishes hf⟩, fun e c => linkFault_configFault c, ackSlots_bit⟩
  intro members f' d
  have hn : d.biu.inHand = some f' := rfl
  have ends {r : Dev} (hr : (s.dev.elapse dt).sendComplete (ackSlots a1 a2) = r) :
      exec (.sendComplete dt ⟨a1, a2⟩) s = .next (s.after dt r) :=
    exec_sendComplete_acts hu (attempting_of_sends hf) hr
  have missed (hd : f.delivered = false) (hm : members ≠ 0) (ha : f'.acked &&& members = 0) :
      (s.dev.elapse dt).sendComplete (ackSlots a1 a2) = d.afterSend := by
    refine sendComplete_missed (d := s.dev.elapse dt) hf.1 hd (Bool.eq_false_iff.mpr (mt (reached_iff _ _).mp ?_))
    exact not_or.mpr ⟨hm, not_not.mpr ha⟩
  have again (hd : f.delivered = true) : (s.dev.elapse dt).sendComplete (ackSlots a1 a2) = d.afterSend :=
    sendComplete_again (d := s.dev.elapse dt) hf.1 hd
  refine ⟨fun hd hm ha hs => ends ?_, fun hd hm ha hs => ends ?_, fun hd hm hs => ends ?_, fun hd h => ends ?_,
    fun hd h => ends ?_⟩
  · exact (missed hd hm ha).trans (afterSend_repeats hn (missing_of_unacknowledged hm ha) (Nat.succ_le_of_lt hs))
  · exact (missed hd hm ha).trans
      (afterSend_givesUp hn (missing_of_unacknowledged hm ha) (Nat.lt_succ_of_le hs) hd)
  · exact (again hd).trans (afterSend_repeats hn hm (Nat.succ_le_of_lt hs))
  · rw [again hd]
    by_cases hm : members &&& ~~~f'.acked = 0
    · exact afterSend_acknowledged hn hm
    · exact afterSend_finishes hn hm (Nat.lt_succ_of_le (h.resolve_left hm)) hd
  · exact sendComplete_delivers (d := s.dev.elapse dt) hf.1 hd ((reached_iff _ _).mpr h)

end Sys2Proof.BudgetBus
end

section
/-! PROOFS. The slots of the outbox: newer frames, successors and withdrawals (R42 to R44, R67, R149). -/

namespace Sys2Proof.BudgetBus

open Sys2Proof.Machine Sys2Proof.Laws

/-! ### One slot with its successor (R43) -/

section OneSlot

variable {α : Type} {merge : α → α → Option α} {s : Slot α} {c : OutFrame α} {x y : α}

theorem place_empty (busy : Bool) (h : s.content = none) :
    s.place busy merge x = { content := some { body := x, seq := none }, next := none } := by
  simp [Slot.place, h]

theorem place_waiting (h : s.content = some c) :
    s.place false merge x =
      { content := (merge c.body x).map (fun b => { body := b, seq := none }), next := none } := by
  simp [Slot.place, h]

theorem place_successor (h : s.content = some c) (hn : s.next = none) :
    s.place true merge x = { s with next := some x } := by
  simp [Slot.place, h, hn]

theorem place_meets_successor (h : s.content = some c) (hn : s.next = some y) :
    s.place true merge x = { s with next := merge y x } := by
  simp [Slot.place, h, hn]

theorem returned_meets_successor (h : s.content = some c) (hn : s.next = some y) :
    s.returned merge = { content := (merge c.body y).map (fun b => { body := b, seq := none }), next := none } := by
  simp [Slot.returned, h, hn]

theorem returned_alone (hn : s.next = none) : s.returned merge = s := by
  unfold Slot.returned
  rw [hn]
  split
  · contradiction
  · rfl

end OneSlot

/-! ### The rules of the slots (R43) -/

theorem pleaMerge_eq (a b : PleaKind) : pleaMerge a b = if a = b then some b else none := rfl

theorem intentMerge_replaces {a b : IntentAction} (h : ¬ (a = .enqueue ∧ b = .withdraw)) :
    intentMerge a b = some b :=
  if_neg h

/-! ### Placing (R42, R43, R62) -/

section Placing

variable {b : Biu}

theorem placeExtend_first {h n : Byte} (hn : ∀ e ∈ b.outbox.extend, e.handle ≠ h) :
    b.placeExtend h n = { b with outbox.extend := b.outbox.extend ++
      [{ handle := h, slot := { content := some { body := n, seq := none }, next := none } }] } := by
  have hf : b.outbox.extend.find? (fun e => e.handle == h) = none := by simpa using hn
  have hk : b.outbox.extend.filter (fun e => e.handle != h) = b.outbox.extend := by simpa using hn
  unfold Biu.placeExtend
  simp only [hf, hk]
  rfl

theorem placeExtend_newer {h n : Byte} {e : ExtFrame} (he : b.outbox.extend.find? (fun e => e.handle == h) = some e) :
    b.placeExtend h n = { b with outbox.extend := b.outbox.extend.filter (fun e => e.handle != h) ++
      [{ handle := h, slot := e.slot.place (b.inHandIs (.extend h)) (fun _ x => some x) n }] } := by
  unfold Biu.placeExtend
  simp only [he]
  rfl

theorem placeAnswer_idle {g : AnswerGroup} (hb : b.answerBusy = false) :
    b.placeAnswer g = { b with outbox.answer := { group := g, next := none } } := by
  simp [Biu.placeAnswer, hb]

theorem placeAnswer_busy {g : AnswerGroup} (hb : b.answerBusy = true) :
    b.placeAnswer g = { b with outbox.answer := { group := b.outbox.answer.group.inHandOnly b, next := some g } } := by
  simp [Biu.placeAnswer, hb]

end Placing

/-! ### A placed RELEASE (R44, R67) -/

section Release

variable (b : Biu) (h : Byte) (o : RelOutcome)

/-- Placing a RELEASE changes the RELEASE, EXTEND and ANSWER slots alone. -/
theorem placeRelease_eq : b.placeRelease h o = { b with outbox := { b.outbox with
    release := b.outbox.release ++ [{ handle := h, outcome := o, seq := none }],
    extend := (b.withdrawExtend h).outbox.extend,
    answer := (b.withdrawHolding h).outbox.answer } } := by
  unfold Biu.placeRelease Biu.withdrawExtend
  by_cases hi : b.inHandIs (.extend h) = true
  · simp only [if_pos hi]; rfl
  · simp only [if_neg hi]; rfl

theorem withdrawExtend_waiting (hi : b.inHandIs (.extend h) = false) :
    (b.withdrawExtend h).outbox.extend = b.outbox.extend.filter (fun e => e.handle != h) := by
  simp [Biu.withdrawExtend, hi]

theorem withdrawExtend_inHand (hi : b.inHandIs (.extend h) = true) :
    (b.withdrawExtend h).outbox.extend =
      b.outbox.extend.map (fun e => if e.handle = h then { e with slot.next := none } else e) := by
  simp [Biu.withdrawExtend, hi]

theorem withdrawHolding_waiting (hi : b.inHandIs (.holding h) = false) :
    (b.withdrawHolding h).outbox.answer.group = b.outbox.answer.group.withoutHolding h := by
  simp [Biu.withdrawHolding, hi]

theorem withdrawHolding_inHand (hi : b.inHandIs (.holding h) = true) :
    (b.withdrawHolding h).outbox.answer.group = b.outbox.answer.group := by
  simp [Biu.withdrawHolding, hi]

theorem withdrawHolding_summary :
    (b.withdrawHolding h).outbox.answer.group.summary = b.outbox.answer.group.summary := by
  unfold Biu.withdrawHolding
  dsimp only
  split_ifs <;> rfl

end Release

/-! ### A frame returns to waiting, or leaves its slot (R40 to R44) -/

section Outbox

variable {o : Outbox} {h : Byte}

theorem hasRelease_iff : o.hasRelease h = true ↔ ∃ r ∈ o.release, r.handle = h := by
  simp [Outbox.hasRelease]

/-- An ANSWER slot with no newer group stays as it is. -/
theorem settle_alone {a : AnswerSlot} (hn : a.next = none) : a.settle = a := by
  simp [AnswerSlot.settle, hn]

/-- A newer group takes the ANSWER slot. -/
theorem settle_newer {a : AnswerSlot} {g : AnswerGroup} (hn : a.next = some g) :
    a.settle = { group := g, next := none } := by
  simp [AnswerSlot.settle, hn]

theorem extend_returns (hr : o.hasRelease h = false) : o.backToWaiting (.extend h) = { o with
    extend := o.extend.map (fun e => if e.handle = h then { e with slot := e.slot.returned newerWins } else e) } := by
  simp [Outbox.backToWaiting, hr]

theorem extend_withdrawn (hr : o.hasRelease h = true) :
    o.backToWaiting (.extend h) = { o with extend := o.extend.filter (fun e => e.handle != h) } := by
  simp [Outbox.backToWaiting, hr]

theorem summary_returns (hn : o.answer.next = none) : o.backToWaiting .summary = o := by
  simp [Outbox.backToWaiting, settle_alone hn]

theorem summary_succeeded {g : AnswerGroup} (hn : o.answer.next = some g) :
    o.backToWaiting .summary = { o with answer := { group := g, next := none } } := by
  simp [Outbox.backToWaiting, settle_newer hn]

theorem holding_returns (hr : o.hasRelease h = false) (hn : o.answer.next = none) :
    o.backToWaiting (.holding h) = o := by
  simp [Outbox.backToWaiting, hr, settle_alone hn]

theorem holding_withdrawn (hr : o.hasRelease h = true) (hn : o.answer.next = none) :
    o.backToWaiting (.holding h) = { o with answer.group := o.answer.group.withoutHolding h } := by
  simp [Outbox.backToWaiting, hr, settle_alone, hn]

theorem holding_succeeded {g : AnswerGroup} (hn : o.answer.next = some g) :
    o.backToWaiting (.holding h) = { o with answer := { group := g, next := none } } := by
  unfold Outbox.backToWaiting
  dsimp only
  split_ifs <;> rw [settle_newer (by exact hn)]

theorem extend_leaves : o.remove (.extend h) = { o with
    extend := (o.extend.map (fun e => if e.handle = h then { e with slot := e.slot.freed } else e)).filter
      (fun e => e.slot.content.isSome) } := by
  simp [Outbox.remove, freeExtend]

theorem summary_leaves (hn : o.answer.next = none) : o.remove .summary = { o with answer.group.summary := none } := by
  simp [Outbox.remove, settle_alone, hn]

theorem summary_leaves_newer {g : AnswerGroup} (hn : o.answer.next = some g) :
    o.remove .summary = { o with answer := { group := g, next := none } } := by
  simp [Outbox.remove, AnswerSlot.settle, hn]

theorem holding_leaves (hn : o.answer.next = none) :
    o.remove (.holding h) = { o with answer.group := o.answer.group.withoutHolding h } := by
  simp [Outbox.remove, settle_alone, hn]

theorem holding_leaves_newer {g : AnswerGroup} (hn : o.answer.next = some g) :
    o.remove (.holding h) = { o with answer := { group := g, next := none } } := by
  simp [Outbox.remove, AnswerSlot.settle, hn]

end Outbox

/-! ### The REQUEUE that a delivered CAL claim withdraws (R44, R149) -/

section Requeue

variable {b : Biu} {q : OutFrame IntentAction}

theorem withdrawRequeue_waiting (hq : b.outbox.intent.content = some q) (hi : b.inHandIs .intent = false)
    (hr : q.body = .requeue) : b.withdrawRequeue = { b with outbox.intent := Slot.empty } := by
  simp [Biu.withdrawRequeue, hq, hi, hr]

theorem withdrawRequeue_stands (hq : b.outbox.intent.content = some q)
    (h : b.inHandIs .intent = true ∨ q.body ≠ .requeue) : b.withdrawRequeue = b := by
  unfold Biu.withdrawRequeue
  rcases h with h | h <;> simp [hq, h]

end Requeue

/-- Settles O24, slot by slot. -/
theorem slotsSettleNewerFrames : Obligations.SlotsSettleNewerFrames := by
  refine ⟨fun α merge s c x y => ?slot, ⟨pleaMerge_eq, rfl, fun a b => intentMerge_replaces⟩, fun b => ?placing,
    fun b h o => ?release, fun o h => ?leaving, fun b q hq => ?requeue⟩
  case slot =>
    exact ⟨fun h busy => place_empty busy h, place_waiting, place_successor, place_meets_successor,
      returned_meets_successor, returned_alone, rfl⟩
  case placing =>
    exact ⟨fun k => rfl, fun a => rfl, rfl, rfl, fun k => rfl, fun h n => placeExtend_first,
      fun h n e => placeExtend_newer, fun g => placeAnswer_idle, fun g => placeAnswer_busy⟩
  case release =>
    rw [placeRelease_eq]
    exact ⟨rfl, withdrawExtend_waiting b h, withdrawExtend_inHand b h,
      fun hi => congrArg AnswerGroup.holdings (withdrawHolding_waiting b h hi), withdrawHolding_inHand b h,
      withdrawHolding_summary b h, rfl, rfl⟩
  case leaving =>
    exact ⟨hasRelease_iff, rfl, fun hr => ⟨extend_returns hr, holding_returns hr⟩, fun g => holding_succeeded, rfl,
      summary_returns, fun hr => ⟨extend_withdrawn hr, holding_withdrawn hr⟩, rfl, rfl, rfl, rfl,
      fun g => summary_succeeded, rfl, rfl, rfl, rfl, extend_leaves, fun hn => ⟨summary_leaves hn, holding_leaves hn⟩,
      fun g hn => ⟨summary_leaves_newer hn, holding_leaves_newer hn⟩, rfl, rfl⟩
  case requeue => exact ⟨withdrawRequeue_waiting hq, withdrawRequeue_stands hq⟩

end Sys2Proof.BudgetBus
end

section
/-! PROOFS. The checks of a received frame and what the receiver decides (R35 to R37, R101). -/

namespace Sys2Proof.BudgetBus

open Sys2Proof.Machine Sys2Proof.Laws

/-! ### Checks 1 to 5 (R35) -/

/-- A content read from a payload has the kind that was read and the length of the payload: no other payload length
and kind code, told apart here, are read at all (R30, R186). -/
theorem ofPayload_some {kind : BitVec 4} {p : List Byte} {b : Body} (h : Body.ofPayload kind p = some b) :
    kindOf b = kind ∧ (payloadOf b).length = p.length := by
  obtain ⟨⟨k, hk⟩⟩ := kind
  rcases p with _ | ⟨b0, _ | ⟨b1, _ | ⟨b2, _ | ⟨b3, _ | ⟨b4, _ | ⟨b5, _ | ⟨b6, p⟩⟩⟩⟩⟩⟩⟩
  all_goals
    interval_cases k <;> cases h
    all_goals exact ⟨rfl, rfl⟩

/-- No kind code is above 12 (R30). -/
theorem kindOf_lt (b : Body) : (kindOf b).toNat < 13 := by
  cases b with
  | claim urgent => cases urgent <;> simp [kindOf]
  | _ => simp [kindOf]

/-- A frame that is read has passed checks 1 to 5. -/
theorem read_some {raw : RawFrame} {hd : Head} {b : Body} (h : raw.read = some (hd, b)) :
    raw.syncOk = true ∧ raw.length ≤ 8 ∧ raw.payload.length = raw.length ∧
      crc8 ([raw.byte0, raw.byte1, raw.byte2] ++ raw.payload) = raw.crc ∧
      Body.ofPayload (raw.byte0.extractLsb' 4 4) raw.payload = some b ∧ b.costOk = true := by
  unfold RawFrame.read at h
  split_ifs at h with hc
  simp only [Bool.and_eq_true, decide_eq_true_eq, beq_iff_eq] at hc
  obtain ⟨⟨⟨hsync, hlen⟩, hpay⟩, hcrc⟩ := hc
  split at h
  · rename_i b' hb'
    split_ifs at h with hcost
    obtain ⟨-, rfl⟩ := Prod.mk.inj (Option.some.inj h)
    exact ⟨hsync, hlen, hpay, hcrc, hb', hcost⟩
  · contradiction

/-- A frame that fails a sync position, its length, its CRC or its kind is not read. -/
theorem read_none {raw : RawFrame} (h : raw.syncOk = false ∨ 8 < raw.length ∨ raw.payload.length ≠ raw.length ∨
    crc8 ([raw.byte0, raw.byte1, raw.byte2] ++ raw.payload) ≠ raw.crc ∨ 13 ≤ (raw.byte0.extractLsb' 4 4).toNat ∨
    ∀ b, kindOf b = raw.byte0.extractLsb' 4 4 → (payloadOf b).length ≠ raw.payload.length) : raw.read = none := by
  rw [Option.eq_none_iff_forall_ne_some]
  rintro ⟨hd, b⟩ hr
  obtain ⟨hsync, hlen, hpay, hcrc, hbody, -⟩ := read_some hr
  obtain ⟨hkind, hsize⟩ := ofPayload_some hbody
  rcases h with h | h | h | h | h | h
  · exact absurd hsync (Bool.eq_false_iff.mp h)
  · exact absurd hlen (Nat.not_le.mpr h)
  · exact h hpay
  · exact h hcrc
  · exact absurd (hkind ▸ kindOf_lt b) (Nat.not_lt.mpr h)
  · exact h b hkind hsize

/-! ### The receiver's decision (R35 to R37, R101) -/

section Decision

variable {d : Dev} {hd : Head} {b : Body}

/-- The part with a frame taken in and nothing driven. -/
def listened (d : Dev) : Dev := { d with biu.busFree := false, biu.line := .silent }

theorem receive_cost (hc : b.costOk = false) : d.receive hd b = d.discardFrame := by
  simp [Dev.receive, hc]

theorem receive_configFault (hc : b.costOk = true) (hp : d.pc.presence = .configFault) :
    d.receive hd b = listened d := by
  simp [Dev.receive, hc, hp, listened]

theorem receive_ownNumber (hc : b.costOk = true) (hp : d.pc.presence ≠ .configFault)
    (hs : hd.station = d.pc.station) : d.receive hd b = (listened d).configFault .duplicateStation := by
  simp [Dev.receive, hc, hp, hs, listened, Dev.ownNumber]

variable (hc : b.costOk = true) (hp : d.pc.presence ≠ .configFault) (hs : hd.station ≠ d.pc.station)

include hc hp hs

theorem receive_silent (hh : ¬ ((d.pc.rosterAt hd.station).state ≠ .silent ∨ isJoinFrame b = true)) :
    d.receive hd b = listened d := by
  obtain ⟨hsil, hj⟩ := not_or.mp hh
  have deaf : (d.pc.rosterAt hd.station).state = .silent ∧ isJoinFrame b = false :=
    ⟨not_not.mp hsil, Bool.eq_false_iff.mpr hj⟩
  exact (if_pos hc).trans ((if_neg hp).trans ((if_neg hs).trans (if_pos deaf)))

/-- A frame that passes every check is a repeat, shows a configuration fault, or is applied (R37, R101). -/
theorem receive_heard (hh : (d.pc.rosterAt hd.station).state ≠ .silent ∨ isJoinFrame b = true) : d.receive hd b =
    if d.isRepeat hd then (listened d).driveSlot.modRoster hd.station (fun r => { r with lastHeard := some d.now })
    else (cfgCheck d.pc.budget b).elim (Dev.applyFrame hd b (listened d).driveSlot) (listened d).configFault := by
  have hears : ¬ ((d.pc.rosterAt hd.station).state = .silent ∧ isJoinFrame b = false) := fun ⟨hsil, hj⟩ =>
    hh.elim (fun h => h hsil) (fun h => absurd h (Bool.eq_false_iff.mp hj))
  unfold Dev.receive
  simp only [if_pos hc, if_neg hp, if_neg hs, if_neg hears]
  refine if_congr Iff.rfl rfl ?_
  cases cfgCheck d.pc.budget b <;> rfl

end Decision

theorem isRepeat_iff (d : Dev) (hd : Head) :
    d.isRepeat hd = true ↔ hd.fresh = false ∧ (d.pc.rosterAt hd.station).lastApplied = some hd.seq := by
  simp [Dev.isRepeat]

/-! ### The commands (logs 10, 20) -/

theorem rawFrame_unread {raw : RawFrame} (d : Dev) (h : raw.read = none) : d.rawFrame raw = d.discardFrame := by
  simp [Dev.rawFrame, h]

theorem rawFrame_read {raw : RawFrame} {hd : Head} {b : Body} (d : Dev) (h : raw.read = some (hd, b)) :
    d.rawFrame raw = d.receive hd b := by
  simp [Dev.rawFrame, h]

theorem exec_frameRejected (s : State) (dt : Time) (raw : RawFrame) (hu : s.dev.Up) :
    exec (.frameRejected dt raw) s = .next (s.after dt ((s.dev.elapse dt).rawFrame raw)) :=
  answer_act s dt (Dev.rawFrame raw) hu

/-- Each command of a received frame hands its frame to the receiver. -/
theorem exec_received (c : Instr) (s : State) {dt : Time} {hd : Head} {b : Body} (hu : s.dev.Up)
    (hc : frameOf c = some (dt, hd, b)) : exec c s = .next (s.after dt ((s.dev.elapse dt).receive hd b)) := by
  cases c
  all_goals cases hc
  all_goals exact answer_act s dt (Dev.receive hd _) hu

/-- Settles O31, check by check. -/
theorem receiverDiscardsAcknowledgesOrRepeats : Obligations.ReceiverDiscardsAcknowledgesOrRepeats := by
  refine ⟨fun s dt raw hu hr => ?unread, fun s dt raw hd b hu hr => ?read,
    fun c s dt hd b hu hc => exec_received c s hu hc, fun raw => read_none, fun raw hd b hr => ?cost,
    fun d hd b => ?decision⟩
  case unread =>
    rw [exec_frameRejected s dt raw hu, rawFrame_unread _ hr]
    rfl
  case read => rw [exec_frameRejected s dt raw hu, rawFrame_read _ hr]
  case cost =>
    obtain ⟨-, -, -, -, -, hcost⟩ := read_some hr
    exact hcost
  case decision =>
    intro quiet slot other heard
    refine ⟨receive_cost, receive_configFault, receive_ownNumber, fun hc ⟨hp, hs⟩ => receive_silent hc hp hs,
      fun hc ⟨hp, hs⟩ hh hr => ?_, fun c hc ⟨hp, hs⟩ hh hr hcfg => ?_, fun hc ⟨hp, hs⟩ hh hr hcfg => ?_,
      isRepeat_iff d hd⟩
    · exact (receive_heard hc hp hs hh).trans (if_pos hr)
    · rw [receive_heard hc hp hs hh, hr, hcfg]; rfl
    · rw [receive_heard hc hp hs hh, hr, hcfg]; rfl

end Sys2Proof.BudgetBus
end

section
/-! PROOFS. What becomes of a claim's origin as the claim leaves its slot: gone with a notice, or back where it was
(R40, R51, R55). -/

namespace Sys2Proof.ClaimLifeCycle

open Sys2Proof.Machine Sys2Proof.Laws

section Ends

variable {d : Dev} {c : Claim} {t : Byte}

/-- An unstaged claim of a local entry leaves that entry QUEUED (R51). -/
theorem unstage_entry (ht : c.tag = some t) :
    d.unstage c = d.clearClaimSlot.modEntry t (fun e => { e with staged := false }) := by
  simp only [Dev.unstage, Dev.returnOrigin, ht]

/-- An unstaged refresh leaves its region without a mark (R51). -/
theorem unstage_refresh (ht : c.tag = none) :
    d.unstage c = d.clearClaimSlot.modRegion c.target.region (fun r => { r with stagedRfb := false }) := by
  simp only [Dev.unstage, Dev.returnOrigin, ht]

theorem endClaim_cancelled (ht : c.tag = some t) (hc : c.cancel = true) :
    d.endClaim c = d.clearClaimSlot.endEntry t (.cancelled t) := by
  simp only [Dev.endClaim, ht, if_pos hc]

theorem endClaim_overdue (ht : c.tag = some t) (hc : c.cancel = false) (ho : d.isOverdue t = true) :
    d.endClaim c = d.clearClaimSlot.endEntry t (.expired t) := by
  simp only [Dev.endClaim, ht, hc, Bool.false_eq_true, if_false, if_pos ho]

theorem endClaim_returns (ht : c.tag = some t) (hc : c.cancel = false) (ho : d.isOverdue t = false) :
    d.endClaim c = d.unstage c := by
  simp only [Dev.endClaim, ht, hc, ho, Bool.false_eq_true, if_false]

theorem endClaim_refresh (ht : c.tag = none) : d.endClaim c = d.unstage c := by
  simp only [Dev.endClaim, ht]

/-- What a change of one entry leaves, the entry named by an equation of tags. -/
theorem modEntry_eq (t : Byte) (f : Entry → Entry) (d : Dev) :
    d.modEntry t f = { d with oqs.queue := d.oqs.queue.map (fun e => if e.tag = t then f e else e) } := by
  simp only [Dev.modEntry, beq_iff_eq]

end Ends

section Leaves

variable {d : Dev} {f : InHand}

theorem leaveSlot_delivered (hr : f.ref = .claim) (hd : f.delivered = true) :
    d.leaveSlot f = Dev.clearClaimSlot { d with biu.inHand := none } := by
  simp only [Dev.leaveSlot, if_pos hr, if_pos hd]

theorem leaveSlot_undelivered {c : Claim} (hr : f.ref = .claim) (hd : f.delivered = false)
    (hc : d.biu.outbox.claim = some c) : d.leaveSlot f = Dev.endClaim c { d with biu.inHand := none } := by
  simp only [Dev.leaveSlot, if_pos hr, hd, hc, Bool.false_eq_true, if_false]

theorem leaveSlot_other (hr : f.ref ≠ .claim) : d.leaveSlot f = d.finished f.ref := by
  simp only [Dev.leaveSlot, if_neg hr]
  rfl

end Leaves

/-- Settles O23, by what the claim was staged for and what has met it since. -/
theorem undeliveredClaimReturnsItsOrigin : Obligations.UndeliveredClaimReturnsItsOrigin := by
  intro d c freed
  have hfreed : d.clearClaimSlot = freed := rfl
  refine ⟨fun t ht hc => ?cancelled, fun t ht hc ho => ?overdue, fun t ht hc ho => ?queued, fun ht => ?refresh,
    fun f => leaveSlot_delivered, fun f => leaveSlot_undelivered, fun f => leaveSlot_other⟩
  case cancelled => exact endClaim_cancelled ht hc
  case overdue => exact endClaim_overdue ht hc ho
  case queued => rw [endClaim_returns ht hc ho, unstage_entry ht, modEntry_eq, hfreed]; rfl
  case refresh => rw [endClaim_refresh ht, unstage_refresh ht]; rfl

end Sys2Proof.ClaimLifeCycle
end

section
/-! PROOFS. The lease timer and DONE: how an own holding is extended, forced and released (R61 to R65, R71, R73). -/

namespace Sys2Proof.ClaimLifeCycle

open Sys2Proof.Machine Sys2Proof.Laws

/-! ### Own holdings -/

theorem part_own {x : Holding} {p : OwnPart} (h : x.holder = .own p) : x.part = some p := by
  simp only [Holding.part, h]

theorem mapPart_own {x : Holding} {p : OwnPart} (f : OwnPart → OwnPart) (h : x.holder = .own p) :
    x.mapPart f = { x with holder := .own (f p) } := by
  simp only [Holding.mapPart, h]

theorem mapPart_peer {x : Holding} {b : Int} {e : Time} (f : OwnPart → OwnPart) (h : x.holder = .peer b e) :
    x.mapPart f = x := by
  simp only [Holding.mapPart, h]

theorem mapHolding_eq (s : Station) (k : Byte) (f : Holding → Holding) (l : List Holding) :
    mapHolding s k f l = l.map (fun y => if y.station = s ∧ y.handle = k then f y else y) := by
  simp only [mapHolding, Bool.and_eq_true, beq_iff_eq]

/-- The own holding found under a handle bears it. -/
theorem handle_of_own {d : Dev} {h : Byte} {x : Holding} (hx : d.ownHolding? h = some x) : x.handle = h := by
  simpa using List.find?_some hx

/-! ### The lease timer (R61 to R63, R71) -/

/-- A timer's end that comes while the timer runs acts at that end and closes its step (log 2). -/
theorem answer_actAt (s : State) {timer : Option Time} {t : Time} (eff : Dev → Dev) (hu : s.dev.Up)
    (ht : timer = some t) :
    s.answer (Dev.actAt timer eff s.dev) = .next (s.afterEnd t (eff (s.dev.elapseTo t))) := by
  rw [ht, actAt_some t eff s.dev hu]
  rfl

section Lease

variable {d : Dev} {h : Byte} {x : Holding} {p : OwnPart} {t : Time}

theorem leaseAt_own (hx : d.ownHolding? h = some x) (hp : x.holder = .own p) : d.leaseAt h = p.leaseEnds := by
  simp only [Dev.leaseAt, hx, Option.bind_some, part_own hp]

theorem leaseExpire_extends (hx : d.ownHolding? h = some x) (hp : x.holder = .own p) (hn : p.period < 3) :
    d.leaseExpire h t = d.leaseExtend x p t := by
  simp only [Dev.leaseExpire, hx, part_own hp, if_pos hn]

theorem leaseExpire_forces (hx : d.ownHolding? h = some x) (hp : x.holder = .own p) (hn : 3 ≤ p.period) :
    d.leaseExpire h t = d.leaseForce x p := by
  simp only [Dev.leaseExpire, hx, part_own hp, if_neg (Nat.not_lt.mpr hn)]

end Lease

theorem exec_leaseTimerExpiry {s : State} {h : Byte} {t : Time} (hu : s.dev.Up) (ht : s.dev.leaseAt h = some t) :
    exec (.leaseTimerExpiry h) s = .next (s.afterEnd t ((s.dev.elapseTo t).leaseExpire h t)) := by
  refine (answer_actAt s (Dev.leaseExpire h ((s.dev.leaseAt h).getD 0)) hu ht).trans ?_
  rw [ht]
  rfl

/-- Settles O45, by the lease period that ends. -/
theorem leaseExpiryExtendsThenForces : Obligations.LeaseExpiryExtendsThenForces := by
  refine ⟨fun s h x p t hu hx hp ht => ?_, mapHolding_eq,
    fun x g => ⟨fun p => mapPart_own g, fun b e => mapPart_peer g⟩⟩
  have hend : s.dev.leaseAt h = some t := (leaseAt_own hx hp).trans ht
  have hx' : (s.dev.elapseTo t).ownHolding? h = some x := hx
  obtain rfl := handle_of_own hx
  intro d who
  rw [exec_leaseTimerExpiry hu hend]
  refine ⟨fun hn => ?_, fun hn => ?_⟩
  · rw [leaseExpire_extends hx' hp hn]; rfl
  · rw [leaseExpire_forces hx' hp hn]; rfl

/-! ### DONE (R64, R65, R73) -/

/-- Codes above 2 name no outcome (R64, R187). -/
theorem ofCode_none {o : Byte} (h : 3 ≤ o.toNat) : DoneOutcome.ofCode o = none := by
  obtain ⟨n, hn⟩ := Nat.exists_eq_add_of_le' h
  unfold DoneOutcome.ofCode
  rw [hn]
  rfl

theorem code_cases {o : Byte} (h : o.toNat < 3) : o = 0 ∨ o = 1 ∨ o = 2 := by
  bv_omega

theorem ofCode_some {o : Byte} (h : o.toNat < 3) : ∃ outcome, DoneOutcome.ofCode o = some outcome := by
  rcases code_cases h with rfl | rfl | rfl
  · exact ⟨.ok, rfl⟩
  · exact ⟨.fail, rfl⟩
  · exact ⟨.aborted, rfl⟩

/-- RELEASE carries OK for the outcome OK, and FAIL for FAIL and ABORTED (R65). -/
theorem toRelease_of_code {o : Byte} {outcome : DoneOutcome} (h : DoneOutcome.ofCode o = some outcome) :
    outcome.toRelease = if o = 0 then .ok else .fail := by
  have hlt : o.toNat < 3 := by
    by_contra hn
    rw [ofCode_none (Nat.not_lt.mp hn)] at h
    cases h
  rcases code_cases hlt with rfl | rfl | rfl
  all_goals
    cases h
    rfl

section Done

variable {d : Dev} {h o : Byte} {outcome : DoneOutcome}

theorem doneRequest_badField (ho : DoneOutcome.ofCode o = none) :
    d.doneRequest h o = d.notify (.refuse .done (some h) .badField) := by
  simp only [Dev.doneRequest, ho]
  rfl

theorem doneRequest_late {f : Byte × Option Byte} (ho : DoneOutcome.ofCode o = some outcome)
    (hf : d.ht.forced.find? (fun f => f.1 == h) = some f) : d.doneRequest h o = d.lateDone h f.2 outcome := by
  simp only [Dev.doneRequest, ho, hf]

theorem doneRequest_holding (ho : DoneOutcome.ofCode o = some outcome) (hf : ∀ f ∈ d.ht.forced, f.1 ≠ h) :
    d.doneRequest h o =
      if d.awaitsDone h then d.acceptDone h outcome else d.notify (.refuse .done (some h) .unknown) := by
  have hn : d.ht.forced.find? (fun f => f.1 == h) = none := by simpa using hf
  simp only [Dev.doneRequest, ho, hn]
  rfl

/-- A handle awaits DONE where its own holding is RUNNING or OVERRUN (R64). -/
theorem awaitsDone_iff {x : Holding} {p : OwnPart} (hx : d.ownHolding? h = some x) (hp : x.holder = .own p) :
    d.awaitsDone h = true ↔ p.state = .running ∨ p.state = .overrun := by
  simp [Dev.awaitsDone, hx, part_own hp, OwnPart.awaitsDone]

theorem awaitsDone_none (hx : d.ownHolding? h = none) : d.awaitsDone h = false := by
  simp only [Dev.awaitsDone, hx]

end Done

theorem exec_done {s : State} {dt : Time} {h o : Byte} (ht : s.dev.TakesTransfers) :
    exec (.done dt h o) s = .next (s.afterPort dt ((s.dev.asked dt).doneRequest h o)) :=
  answer_port s dt (fun d => Dev.doneRequest h o d.quietSdo) ht

/-- Settles O53, case by case in the order of R64. -/
theorem doneIsAnsweredByTheFirstCaseThatFits : Obligations.DoneIsAnsweredByTheFirstCaseThatFits := by
  intro s dt h o ht d
  rw [exec_done ht]
  refine ⟨fun ho => ?badField, fun outcome f ho hf => ?late, fun outcome x p ho hf hx hp hs => ?accepted,
    fun x p ho hf hx hp hr hv => ?notAwaiting, fun ho hf hx => ?noHolding, ⟨rfl, rfl, rfl⟩, mapHolding_eq,
    fun x g p => mapPart_own g⟩
  case badField => rw [doneRequest_badField (ofCode_none ho)]
  case late =>
    rw [doneRequest_late ho hf]
    simp only [Dev.lateDone, List.isEmpty_iff]
  case accepted =>
    rw [doneRequest_holding ho hf, if_pos ((awaitsDone_iff hx hp).mpr hs), ← toRelease_of_code ho]
    rfl
  case notAwaiting =>
    obtain ⟨outcome, ho⟩ := ofCode_some ho
    rw [doneRequest_holding ho hf, if_neg (mt (awaitsDone_iff hx hp).mp (not_or.mpr ⟨hr, hv⟩))]
  case noHolding =>
    obtain ⟨outcome, ho⟩ := ofCode_some ho
    rw [doneRequest_holding ho hf, if_neg (Bool.eq_false_iff.mp (awaitsDone_none hx))]

end Sys2Proof.ClaimLifeCycle
end

section
/-! PROOFS. The close of a step, part by part: what its selection finds, whether one is made, and the two timers (R142,
R147, R157, logs 11, 33). -/

namespace Sys2Proof.ClaimLifeCycle

open Sys2Proof.Machine Sys2Proof.Laws

/-! ### What the close keeps of what is tested -/

section Same

variable {a b : Dev}

/-- The holding table stands but for the handle counter and the head timer. -/
theorem same_ht (h : a.SameButClose b) : ∃ ctr timer, b.ht = { a.ht with handleCtr := ctr, headTimer := timer } := by
  obtain ⟨-, -, -, -, hht, -⟩ := h
  exact ⟨_, _, hht⟩

theorem same_holdings (h : a.SameButClose b) : b.ht.holdings = a.ht.holdings := by
  obtain ⟨_, _, hht⟩ := same_ht h; rw [hht]

theorem same_surge (h : a.SameButClose b) : b.ht.surge = a.ht.surge := by
  obtain ⟨_, _, hht⟩ := same_ht h; rw [hht]

theorem same_pleas (h : a.SameButClose b) : b.ht.pleas = a.ht.pleas := by
  obtain ⟨_, _, hht⟩ := same_ht h; rw [hht]

theorem same_calQueue (h : a.SameButClose b) : b.ht.calQueue = a.ht.calQueue := by
  obtain ⟨_, _, hht⟩ := same_ht h; rw [hht]

theorem same_forced (h : a.SameButClose b) : b.ht.forced = a.ht.forced := by
  obtain ⟨_, _, hht⟩ := same_ht h; rw [hht]

theorem same_pc (h : a.SameButClose b) : b.pc = a.pc := by
  obtain ⟨-, -, hpc, -⟩ := h
  exact hpc

theorem same_pu (h : a.SameButClose b) : b.pu = a.pu := by
  obtain ⟨-, -, -, hpu, -⟩ := h
  exact hpu

theorem same_hold (h : a.SameButClose b) : b.rs.hold = a.rs.hold := by
  obtain ⟨-, -, -, -, -, -, hrs, -⟩ := h
  rw [hrs]

theorem same_urgency (h : a.SameButClose b) : b.rs.urgency = a.rs.urgency := by
  obtain ⟨-, -, -, -, -, -, hrs, -⟩ := h
  rw [hrs]

theorem same_debt (h : a.SameButClose b) (r : RegionNo) : (b.rs.regionAt r).debt = (a.rs.regionAt r).debt := by
  obtain ⟨-, -, -, -, -, -, -, hregion, -⟩ := h
  rw [hregion]

theorem same_ownHoldings (h : a.SameButClose b) : b.ownHoldings = a.ownHoldings := by
  simp only [Dev.ownHoldings, same_holdings h]

theorem same_isHead (h : a.SameButClose b) : b.isHead = a.isHead := by
  simp only [Dev.isHead, same_pc h, same_calQueue h]

theorem same_headAsMember (h : a.SameButClose b) : b.headAsMember = a.headAsMember := by
  simp only [Dev.headAsMember, same_pc h, same_isHead h]

theorem same_a1 (h : a.SameButClose b) : b.a1 = a.a1 := by
  simp only [Dev.a1, Dev.quarantined, same_pc h, same_forced h]

theorem same_a2 (h : a.SameButClose b) (c : Cls) (r : RegionNo) : b.a2 c r = a.a2 c r := by
  simp only [Dev.a2, Dev.a2Station, Dev.ownRfb?, same_ownHoldings h]

theorem same_a3 (h : a.SameButClose b) : b.a3 = a.a3 := by
  simp only [Dev.a3, same_surge h]

theorem same_free (h : a.SameButClose b) : b.free = a.free := by
  simp only [Dev.free, Dev.units, same_pc h, same_holdings h]

theorem same_urgentClaim (h : a.SameButClose b) (c : Cls) : b.urgentClaim c = a.urgentClaim c := by
  simp only [Dev.urgentClaim, same_urgency h]

theorem same_a4 (h : a.SameButClose b) (c : Cls) : b.a4 c = a.a4 c := by
  unfold Dev.a4
  rw [same_urgentClaim h, same_free h]

theorem same_a5 (h : a.SameButClose b) (c : Cls) (r : RegionNo) : b.a5 c r = a.a5 c r := by
  simp only [Dev.a5, same_pc h, same_pleas h, same_debt h]

theorem same_a6 (h : a.SameButClose b) (c : Cls) : b.a6 c = a.a6 c := by
  simp only [Dev.a6, same_holdings h, same_isHead h]

theorem same_a7 (h : a.SameButClose b) : b.a7 = a.a7 := by
  simp only [Dev.a7, same_pu h]

theorem same_a8 (h : a.SameButClose b) : b.a8 = a.a8 := by
  simp only [Dev.a8, same_hold h]

/-- The admission test reads nothing that the close of a step changes (R10). -/
theorem same_firstFail (h : a.SameButClose b) (c : Cls) (r : RegionNo) : b.firstFail c r = a.firstFail c r := by
  unfold Dev.firstFail
  rw [same_a1 h, same_a2 h, same_a3 h, same_a4 h, same_a5 h, same_a6 h, same_a7 h, same_a8 h]

end Same

/-- The five conditions of a selection (R157). -/
theorem selectable_iff (d : Dev) : d.selectable = true ↔
    d.biu.outbox.claim = none ∧ d.pc.presence = .member ∧ d.ht.forced = [] ∧ d.ownHoldings.length < 2 ∧
      d.pu.notices.length ≤ 12 ∧ d.rs.hold = false := by
  have places : d.pu.notices.length + 4 ≤ Config.noticeCap ↔ d.pu.notices.length ≤ 12 := by
    unfold Config.noticeCap; omega
  simp [Dev.selectable, Dev.a1, Dev.a2Station, Dev.a7, Dev.a8, Dev.quarantined, places, and_assoc]

theorem same_selectable {a b : Dev} (h : a.SameButClose b) (hc : b.biu.outbox.claim = a.biu.outbox.claim) :
    b.selectable = a.selectable := by
  rw [Bool.eq_iff_iff, selectable_iff, selectable_iff, hc, same_pc h, same_forced h, same_ownHoldings h, same_pu h,
    same_hold h]

/-! ### Before the selection (log 33) -/

/-- An entry without its intent flag. -/
def unflagged (e : Entry) : Entry := { e with intent := false }

/-- What a selection may change stands: the CLAIM slot, the marks, the handle counter, and the entries but for their
intent flags. -/
structure NothingStaged (a b : Dev) : Prop where
  claim : b.biu.outbox.claim = a.biu.outbox.claim
  rs : b.rs = a.rs
  handleCtr : b.ht.handleCtr = a.ht.handleCtr
  queue : b.oqs.queue.map unflagged = a.oqs.queue.map unflagged

theorem NothingStaged.refl (d : Dev) : NothingStaged d d := ⟨rfl, rfl, rfl, rfl⟩

theorem NothingStaged.trans {a b c : Dev} (h : NothingStaged a b) (k : NothingStaged b c) : NothingStaged a c :=
  ⟨k.claim.trans h.claim, k.rs.trans h.rs, k.handleCtr.trans h.handleCtr, k.queue.trans h.queue⟩

/-- Whatever is read of the entries but the intent flags stands. -/
theorem NothingStaged.map_queue {a b : Dev} (h : NothingStaged a b) {α : Type} (f : Entry → α)
    (hf : ∀ e, f (unflagged e) = f e) : b.oqs.queue.map f = a.oqs.queue.map f := by
  have hmap (l : List Entry) : (l.map unflagged).map f = l.map f := by
    rw [List.map_map]; exact List.map_congr_left (fun e _ => hf e)
  rw [← hmap, h.queue, hmap]

/-- Each entry stood there before, but for its intent flag. -/
theorem NothingStaged.mem_queue {a b : Dev} (h : NothingStaged a b) {e : Entry} (he : e ∈ b.oqs.queue) :
    ∃ x ∈ a.oqs.queue, unflagged x = unflagged e := by
  have hm : unflagged e ∈ a.oqs.queue.map unflagged := h.queue ▸ List.mem_map_of_mem he
  exact List.mem_map.mp hm

theorem flagFirst_unflagged (p : Entry → Bool) (l : List Entry) :
    (flagFirst p l).map unflagged = l.map unflagged := by
  induction l with
  | nil => rfl
  | cons e es ih =>
    unfold flagFirst
    split_ifs
    · rfl
    · simp only [List.map_cons, ih]

theorem noteTake_stages (b d : Dev) : NothingStaged d (Dev.noteTake b d) := by
  unfold Dev.noteTake; split_ifs <;> exact ⟨rfl, rfl, rfl, rfl⟩

theorem keepHeadTimer_stages (b d : Dev) : NothingStaged d (Dev.keepHeadTimer b d) := by
  unfold Dev.keepHeadTimer; split_ifs <;> exact ⟨rfl, rfl, rfl, rfl⟩

theorem clearStaleFlags_stages (d : Dev) : NothingStaged d d.clearStaleFlags := by
  unfold Dev.clearStaleFlags
  split_ifs
  · exact ⟨rfl, rfl, rfl, by simp [unflagged, Function.comp_def]⟩
  · exact .refl d

theorem placeEnqueue_stages (d : Dev) : NothingStaged d d.placeEnqueue := by
  unfold Dev.placeEnqueue
  split_ifs
  · exact ⟨rfl, rfl, rfl, flagFirst_unflagged _ _⟩
  · exact .refl d

/-- The part as the selection of a closing step finds it: the head timer, the intent flags and ENQUEUE are settled. -/
def opened (b d : Dev) : Dev := (Dev.keepHeadTimer b (Dev.noteTake b d)).clearStaleFlags.placeEnqueue

theorem close_eq (b d : Dev) : Dev.close b d = (opened b d).runSelection.keepSelTimer := rfl

theorem opened_same (b d : Dev) : d.SameButClose (opened b d) :=
  (((noteTake_same b d).trans (keepHeadTimer_same b _)).trans (clearStaleFlags_same _)).trans (placeEnqueue_same _)

theorem opened_stages (b d : Dev) : NothingStaged d (opened b d) :=
  (((noteTake_stages b d).trans (keepHeadTimer_stages b _)).trans (clearStaleFlags_stages _)).trans
    (placeEnqueue_stages _)

theorem opened_selectable (b d : Dev) : (opened b d).selectable = d.selectable :=
  same_selectable (opened_same b d) (opened_stages b d).claim

@[simp] theorem keepHeadTimer_oqs (b d : Dev) : (Dev.keepHeadTimer b d).oqs = d.oqs := by
  unfold Dev.keepHeadTimer; split_ifs <;> rfl

@[simp] theorem clearStaleFlags_selectDue (d : Dev) : d.clearStaleFlags.oqs.selectDue = d.oqs.selectDue := by
  unfold Dev.clearStaleFlags; split_ifs <;> rfl

@[simp] theorem placeEnqueue_selectDue (d : Dev) : d.placeEnqueue.oqs.selectDue = d.oqs.selectDue := by
  unfold Dev.placeEnqueue; split_ifs <;> rfl

@[simp] theorem clearStaleFlags_ht (d : Dev) : d.clearStaleFlags.ht = d.ht := by
  unfold Dev.clearStaleFlags; split_ifs <;> rfl

@[simp] theorem placeEnqueue_ht (d : Dev) : d.placeEnqueue.ht = d.ht := by
  unfold Dev.placeEnqueue; split_ifs <;> rfl

theorem opened_due (b d : Dev) : (opened b d).oqs.selectDue = true ↔ Dev.SelectionDue b d := by
  simp only [opened, placeEnqueue_selectDue, clearStaleFlags_selectDue, keepHeadTimer_oqs, noteTake_due]

theorem opened_headTimer (b d : Dev) :
    (opened b d).ht.headTimer = (Dev.keepHeadTimer b (Dev.noteTake b d)).ht.headTimer := by
  simp only [opened, placeEnqueue_ht, clearStaleFlags_ht]

/-! ### What a selection can do (R49, R158 to R160) -/

/-- The claim record that is staged next for a class, a target and a tag (R49, R50). -/
def nextClaim (c : Cls) (t : Target) (tag : Option Byte) (d : Dev) : Claim :=
  { handle := d.freshHandle, cls := c, target := t, tag := tag, cancel := false, urgent := d.urgentClaim c,
    unstageDue := false, seq := none }

theorem stageClaim_eq (c : Cls) (t : Target) (tag : Option Byte) (d : Dev) : d.stageClaim c t tag =
    { d with biu.outbox.claim := some (nextClaim c t tag d), ht.handleCtr := d.freshHandle + 1 } := rfl

/-- A local entry staged: its claim in the slot, itself STAGED (R49). -/
def entryStaged (e : Entry) (d : Dev) : Dev :=
  (d.stageClaim e.cls { region := e.region.getD 0, group := 0 } (some e.tag)).modEntry e.tag
    (fun x => { x with staged := true })

/-- What one selection can leave: nothing staged, a refresh whose test passed, or a QUEUED entry whose test passed, in
the last two cases with entries passed over. -/
inductive Selected (d : Dev) : Dev → Prop where
  | nothing : Selected d d
  | refresh (r : RegionNo) (passed : List Byte) (hpass : d.firstFail .rfb r = none) :
      Selected d ((d.bump passed).stageRfb r)
  | entry (e x : Entry) (passed : List Byte) (he : e ∈ d.oqs.queue) (hq : e.staged = false)
      (hpass : d.testEntry e = none) (hx : d.oqs.entry? e.tag = some x) :
      Selected d (entryStaged x (d.bump passed))

theorem bump_none (d : Dev) : d.bump [] = d := by
  simp [Dev.bump]

theorem entry_tag {o : Oqs} {t : Byte} {e : Entry} (h : o.entry? t = some e) : e.tag = t := by
  simpa using List.find?_some h

/-- The entry found under a tag after some were passed over is the one that stood there. -/
theorem bump_entry (passed : List Byte) (d : Dev) (t : Byte) : (d.bump passed).oqs.entry? t =
    (d.oqs.entry? t).map (fun e => if passed.contains e.tag then { e with bypass := satInc 4 e.bypass } else e) := by
  have htag (e : Entry) :
      (if passed.contains e.tag then { e with bypass := satInc 4 e.bypass } else e).tag = e.tag := by
    split_ifs <;> rfl
  simp only [Oqs.entry?, Dev.bump, List.find?_map, Function.comp_def, htag]

/-- Staging by tag stages the entry found under the tag. -/
theorem stageEntry_bump {passed : List Byte} {d : Dev} {t : Byte} {e : Entry} (h : d.oqs.entry? t = some e) :
    (d.bump passed).stageEntry t = entryStaged e (d.bump passed) := by
  obtain rfl := entry_tag h
  unfold Dev.stageEntry
  rw [bump_entry, h]
  simp only [Option.map_some]
  split_ifs <;> rfl

theorem scanEntries_chosen {test : Entry → Option Cond} {passed ps : List Byte} {l : List Entry} {t : Byte}
    (h : scanEntries test passed l = .chosen t ps) : ∃ e ∈ l, e.tag = t ∧ test e = none := by
  induction l generalizing passed with
  | nil => cases h
  | cons e es ih =>
    unfold scanEntries at h
    split at h
    · next hpass =>
      cases h
      exact ⟨e, List.mem_cons_self, rfl, hpass⟩
    all_goals
      obtain ⟨x, hx, hrest⟩ := ih h
      exact ⟨x, List.mem_cons_of_mem _ hx, hrest⟩

theorem scanBlockers_chosen {test : Entry → Option Cond} {ps : List Byte} {rest l : List Entry} {t : Byte}
    (h : scanBlockers test rest l = .chosen t ps) : ∃ e ∈ l ++ rest, e.tag = t ∧ test e = none := by
  induction l with
  | nil => exact scanEntries_chosen h
  | cons e es ih =>
    unfold scanBlockers at h
    split at h
    · next hpass =>
      cases h
      exact ⟨e, List.mem_cons_self, rfl, hpass⟩
    · cases h
    · obtain ⟨x, hx, hrest⟩ := ih h
      exact ⟨x, List.mem_cons_of_mem _ hx, hrest⟩

/-- What step 2 of a selection chooses is QUEUED and passes its test. -/
theorem localChoice_chosen {d : Dev} {t : Byte} {ps : List Byte} (h : d.localChoice = .chosen t ps) :
    ∃ e ∈ d.oqs.queue, e.tag = t ∧ e.staged = false ∧ d.testEntry e = none := by
  obtain ⟨e, he, htag, hpass⟩ := scanBlockers_chosen h
  have hqueued : e ∈ d.oqs.queue.filter (fun e => !e.staged) :=
    (List.mem_append.mp he).elim List.mem_of_mem_filter List.mem_of_mem_filter
  obtain ⟨hmem, hq⟩ := List.mem_filter.mp hqueued
  exact ⟨e, hmem, htag, by simpa using hq, hpass⟩

theorem exists_entry {o : Oqs} {e : Entry} (h : e ∈ o.queue) : ∃ x, o.entry? e.tag = some x :=
  Option.isSome_iff_exists.mp (List.find?_isSome.mpr ⟨e, h, beq_self_eq_true _⟩)

theorem selectPullIn_selected (passed : List Byte) (d : Dev) : Selected d (d.selectPullIn passed) := by
  unfold Dev.selectPullIn
  split
  · next r _ =>
    split_ifs with hpass
    · exact .refresh r passed (Option.isNone_iff_eq_none.mp hpass)
    · exact .nothing
  · exact .nothing

theorem selectLocal_selected (d : Dev) : Selected d d.selectLocal := by
  unfold Dev.selectLocal
  split_ifs
  · exact selectPullIn_selected _ d
  · split
    · next t passed hchoice =>
      obtain ⟨e, he, rfl, hq, hpass⟩ := localChoice_chosen hchoice
      obtain ⟨x, hx⟩ := exists_entry he
      rw [stageEntry_bump hx]
      exact .entry e x passed he hq hpass hx
    · exact .nothing
    · exact selectPullIn_selected _ d

/-- Everything one selection can do. -/
theorem selectOnce_selected (d : Dev) : Selected d d.selectOnce := by
  unfold Dev.selectOnce
  split
  · next r _ =>
    split_ifs with hpass
    · have := Selected.refresh (d := d) r [] (Option.isNone_iff_eq_none.mp hpass)
      rwa [bump_none] at this
    · exact selectLocal_selected d
  · exact selectLocal_selected d

section Selected

variable {d x : Dev}

theorem Selected.selTimer (h : Selected d x) : x.oqs.selTimer = d.oqs.selTimer := by
  cases h <;> rfl

theorem Selected.selectDue (h : Selected d x) : x.oqs.selectDue = d.oqs.selectDue := by
  cases h <;> rfl

/-- A selection that leaves an empty CLAIM slot has changed nothing. -/
theorem Selected.eq_of_empty (h : Selected d x) (hc : x.biu.outbox.claim = none) : x = d := by
  cases h with
  | nothing => rfl
  | refresh => cases hc
  | entry => cases hc

end Selected

/-! ### Whether a selection is made, and its timer (R157, log 11) -/

/-- The part as a selection that is made finds it: the event is taken, the selection timer restarted. -/
def selecting (d : Dev) : Dev := { d with oqs.selectDue := false, oqs.selTimer := some (d.now + selectTime) }

theorem selecting_same (d : Dev) : d.SameButClose (selecting d) := sameButClose_queue d d.oqs.queue _ _ rfl

theorem selecting_stages (d : Dev) : NothingStaged d (selecting d) := ⟨rfl, rfl, rfl, rfl⟩

theorem runSelection_selects {d : Dev} (hd : d.oqs.selectDue = true) (hs : d.selectable = true) :
    d.runSelection = (selecting d).selectOnce := by
  unfold Dev.runSelection
  rw [if_pos hd, if_pos hs]
  rfl

theorem runSelection_rests {d : Dev} (h : ¬ (d.oqs.selectDue = true ∧ d.selectable = true)) :
    d.runSelection = { d with oqs.selectDue := false } := by
  unfold Dev.runSelection
  split_ifs with hd hs
  · exact absurd ⟨hd, hs⟩ h
  · rfl
  · rw [← Bool.eq_false_iff.mpr hd]

theorem keepSelTimer_eq (d : Dev) : d.keepSelTimer = { d with
    oqs.selTimer := if d.selectable = true then some (d.oqs.selTimer.getD (d.now + selectTime)) else none } := by
  unfold Dev.keepSelTimer
  split_ifs with hs
  · split
    · next t ht => rw [ht, Option.getD_some, ← ht]
    · next ht => rw [ht, Option.getD_none]
  · rfl

/-- The close of a step in which a selection is made. -/
theorem close_selects {b d : Dev} (hd : Dev.SelectionDue b d) (hs : d.selectable = true) :
    ∃ x, Selected (selecting (opened b d)) x ∧ Dev.close b d = x.keepSelTimer := by
  refine ⟨_, selectOnce_selected _, ?_⟩
  rw [close_eq, runSelection_selects ((opened_due b d).mpr hd) ((opened_selectable b d).trans hs)]

/-- The close of a step in which none is made. -/
theorem close_rests {b d : Dev} (h : ¬ (Dev.SelectionDue b d ∧ d.selectable = true)) :
    Dev.close b d = Dev.keepSelTimer { opened b d with oqs.selectDue := false } := by
  rw [close_eq, runSelection_rests]
  rwa [opened_due, opened_selectable]

end Sys2Proof.ClaimLifeCycle
end

section
/-! PROOFS. The head timer and the selection timer, and everything the close of a step may change (R147, R148, R157,
logs 2, 11, 28). -/

namespace Sys2Proof.ClaimLifeCycle

open Sys2Proof.Machine Sys2Proof.Laws

/-! ### The head timer (R147, R148) -/

theorem headAsMember_iff (d : Dev) : d.headAsMember = true ↔
    d.pc.presence = .member ∧ ∃ t rest, d.ht.calQueue = (d.pc.station, t) :: rest := by
  have head : d.isHead = true ↔ ∃ t rest, d.ht.calQueue = (d.pc.station, t) :: rest := by
    unfold Dev.isHead
    cases d.ht.calQueue with
    | nil => simp
    | cons e rest => obtain ⟨x, t⟩ := e; simp
  simp [Dev.headAsMember, head]

theorem headExpire_gives {d : Dev}
    (h : d.biu.outbox.intent.holds .withdraw = true ∨ d.biu.outbox.intent.holds .requeue = true) :
    d.headExpire = { d with ht.headTimer := none } := by
  unfold Dev.headExpire
  exact if_pos (by simpa using h)

theorem headExpire_requeues {d : Dev}
    (h : ¬ (d.biu.outbox.intent.holds .withdraw = true ∨ d.biu.outbox.intent.holds .requeue = true)) :
    d.headExpire = { d with ht.headTimer := none, biu := d.biu.placeIntent .requeue } := by
  unfold Dev.headExpire
  exact if_neg (by simpa using h)

theorem exec_headTimerExpiry {s : State} {t : Time} (hu : s.dev.Up) (ht : s.dev.ht.headTimer = some t) :
    exec .headTimerExpiry s = .next (s.afterEnd t (s.dev.elapseTo t).headExpire) :=
  answer_actAt s Dev.headExpire hu ht

theorem keepHeadTimer_stops {b d : Dev} (h : d.headAsMember = false) :
    Dev.keepHeadTimer b d = { d with ht.headTimer := none } := by
  simp [Dev.keepHeadTimer, h]

theorem keepHeadTimer_starts {b d : Dev} (h : d.headAsMember = true) (hb : b.headAsMember = false) :
    Dev.keepHeadTimer b d = { d with ht.headTimer := some (d.now + headTime) } := by
  simp [Dev.keepHeadTimer, h, hb]

theorem keepHeadTimer_goesOn {b d : Dev} (h : d.headAsMember = true) (hb : b.headAsMember = true) :
    Dev.keepHeadTimer b d = d := by
  simp [Dev.keepHeadTimer, h, hb]

theorem Selected.headTimer {d x : Dev} (h : Selected d x) : x.ht.headTimer = d.ht.headTimer := by
  cases h <;> rfl

/-- The selection leaves the head timer as it was set before. -/
theorem close_headTimer (b d : Dev) :
    (Dev.close b d).ht.headTimer = (Dev.keepHeadTimer b (Dev.noteTake b d)).ht.headTimer := by
  rw [← opened_headTimer]
  by_cases h : Dev.SelectionDue b d ∧ d.selectable = true
  · obtain ⟨x, hx, hclose⟩ := close_selects h.1 h.2
    rw [hclose, keepSelTimer_eq]
    exact hx.headTimer
  · rw [close_rests h, keepSelTimer_eq]

theorem noteTake_headAsMember (b d : Dev) : (Dev.noteTake b d).headAsMember = d.headAsMember :=
  same_headAsMember (noteTake_same b d)

theorem noteTake_now (b d : Dev) : (Dev.noteTake b d).now = d.now := (noteTake_same b d).1

theorem noteTake_ht (b d : Dev) : (Dev.noteTake b d).ht = d.ht := by
  unfold Dev.noteTake; split_ifs <;> rfl

/-! ### The selection timer (R157) -/

theorem exec_selectionTimerExpiry {s : State} {t : Time} (hu : s.dev.Up) (ht : s.dev.oqs.selTimer = some t) :
    exec .selectionTimerExpiry s = .next (s.afterEnd t (s.dev.elapseTo t).prompt) :=
  answer_actAt s Dev.prompt hu ht

theorem keepSelTimer_runs_iff (d : Dev) : d.keepSelTimer.oqs.selTimer ≠ none ↔ d.keepSelTimer.selectable = true := by
  have same : d.keepSelTimer.selectable = d.selectable := by rw [keepSelTimer_eq]; rfl
  rw [same, keepSelTimer_eq]
  dsimp only
  split_ifs with h <;> simp [h]

/-- After every step the timer runs exactly while the five conditions hold (R157). -/
theorem close_selTimer_runs_iff (b d : Dev) :
    (Dev.close b d).oqs.selTimer ≠ none ↔ (Dev.close b d).selectable = true :=
  keepSelTimer_runs_iff _

/-- A selection that leaves the conditions standing has restarted the timer (R157). -/
theorem close_selTimer_restarts {b d : Dev} (hd : Dev.SelectionDue b d)
    (hr : (Dev.close b d).oqs.selTimer ≠ none) :
    (Dev.close b d).oqs.selTimer = some (d.now + selectTime) := by
  have hnow : (opened b d).now = d.now := (opened_same b d).1
  by_cases hs : d.selectable = true
  · obtain ⟨x, hx, hclose⟩ := close_selects hd hs
    have htimer : x.oqs.selTimer = some (d.now + selectTime) := hx.selTimer.trans (by rw [← hnow]; rfl)
    rw [hclose, keepSelTimer_eq] at hr ⊢
    dsimp only at hr ⊢
    split_ifs at hr ⊢
    · rw [htimer, Option.getD_some]
    · exact absurd rfl hr
  · have hrest : Dev.selectable { opened b d with oqs.selectDue := false } = d.selectable :=
      opened_selectable b d
    rw [close_rests (fun h => hs h.2), keepSelTimer_eq, hrest, if_neg hs] at hr
    exact absurd rfl hr

/-! ### What the close changes (log 11) -/

theorem keepSelTimer_stages (d : Dev) : NothingStaged d d.keepSelTimer := by
  rw [keepSelTimer_eq]; exact ⟨rfl, rfl, rfl, rfl⟩

theorem close_selectDue (b d : Dev) : (Dev.close b d).oqs.selectDue = false := by
  by_cases h : Dev.SelectionDue b d ∧ d.selectable = true
  · obtain ⟨x, hx, hclose⟩ := close_selects h.1 h.2
    rw [hclose, keepSelTimer_eq]
    exact hx.selectDue
  · rw [close_rests h, keepSelTimer_eq]

/-- A close in which no selection is made stages nothing. -/
theorem close_stages_nothing {b d : Dev} (h : ¬ (Dev.SelectionDue b d ∧ d.selectable = true)) :
    NothingStaged d (Dev.close b d) := by
  have taken : NothingStaged (opened b d) { opened b d with oqs.selectDue := false } := ⟨rfl, rfl, rfl, rfl⟩
  rw [close_rests h]
  exact ((opened_stages b d).trans taken).trans (keepSelTimer_stages _)

/-- A close that leaves the CLAIM slot as it was has staged nothing. -/
theorem close_stages_nothing_of_claim {b d : Dev}
    (hc : (Dev.close b d).biu.outbox.claim = d.biu.outbox.claim) : NothingStaged d (Dev.close b d) := by
  by_cases h : Dev.SelectionDue b d ∧ d.selectable = true
  · obtain ⟨x, hx, hclose⟩ := close_selects h.1 h.2
    obtain ⟨hempty, -⟩ := (selectable_iff d).mp h.2
    have slot : x.biu.outbox.claim = none := by
      rw [← (keepSelTimer_stages x).claim, ← hclose, hc, hempty]
    rw [hclose, hx.eq_of_empty slot]
    exact ((opened_stages b d).trans (selecting_stages _)).trans (keepSelTimer_stages _)
  · exact close_stages_nothing h

/-- Settles O48: each timer by what starts and stops it, then the close by whether a selection is made. -/
theorem headAndSelectionTimersRunTheirCourse : Obligations.HeadAndSelectionTimersRunTheirCourse := by
  refine ⟨⟨fun s t hu ht => ?headEnds, fun b d => ?headKept, headAsMember_iff⟩,
    ⟨fun s t hu ht => exec_selectionTimerExpiry hu ht, fun b d => ?selRuns, fun b d => close_selTimer_restarts⟩,
    fun d => rfl, fun b d => ?closes⟩
  case headEnds =>
    intro d giving
    rw [exec_headTimerExpiry hu ht]
    exact ⟨fun hg => by rw [headExpire_gives (d := d) hg], fun hg => by rw [headExpire_requeues (d := d) hg]⟩
  case headKept =>
    rw [close_headTimer]
    have hm := noteTake_headAsMember b d
    refine ⟨fun h => ?_, fun h hb => ?_, fun h hb => ?_⟩
    · rw [keepHeadTimer_stops (hm.trans h)]
    · rw [keepHeadTimer_starts (hm.trans h) hb, noteTake_now]; rfl
    · rw [keepHeadTimer_goesOn (hm.trans h) hb, noteTake_ht]
  case selRuns =>
    have conditions := (close_selTimer_runs_iff b d).trans (selectable_iff _)
    rwa [close_pc, close_forced, same_ownHoldings (close_same b d), close_pu, close_hold] at conditions
  case closes =>
    intro e stages
    refine ⟨close_same b d, close_selectDue b d, fun h => (close_stages_nothing ?_).claim, fun hc => ?_⟩
    · rintro ⟨hd, hs⟩
      exact h.elim (fun hc => hc ((selectable_iff d).mp hs).1) (fun hn => hn hd)
    · have stands : NothingStaged d e := close_stages_nothing_of_claim hc
      exact ⟨stands.rs, stands.handleCtr, stands.map_queue _ (fun _ => rfl)⟩

end Sys2Proof.ClaimLifeCycle
end

section
/-! PROOFS. Staging: what the close of a step puts in the CLAIM slot, and what it changes with it (R49, R50, R111,
R161). -/

namespace Sys2Proof.ClaimLifeCycle

open Sys2Proof.Machine Sys2Proof.Laws

/-! ### The next handle (R50) -/

section Handle

variable {d : Dev}

/-- With the forced list empty and at most one own holding, at most one value is passed over (R50). -/
theorem freshHandle_eq (hf : d.ht.forced = []) (hl : d.ownHoldings.length < 2) :
    d.freshHandle =
      if ∃ h ∈ d.ownHoldings, h.handle = d.ht.handleCtr then d.ht.handleCtr + 1 else d.ht.handleCtr := by
  simp only [Dev.freshHandle, Dev.usedHandles, hf, List.map_nil, List.append_nil]
  match d.ownHoldings, hl with
  | [], _ => simp [nextHandle]
  | [x], _ => simp [nextHandle, eq_comm]

theorem freshHandle_unused (hf : d.ht.forced = []) (hl : d.ownHoldings.length < 2) :
    ∀ h ∈ d.ownHoldings, h.handle ≠ d.freshHandle := by
  rw [freshHandle_eq hf hl]
  match d.ownHoldings, hl with
  | [], _ => simp
  | [x], _ =>
    simp only [List.mem_singleton, forall_eq, exists_eq_left]
    split_ifs with hx
    · rw [hx]; bv_omega
    · exact hx

end Handle

theorem same_freshHandle {a b : Dev} (h : a.SameButClose b) (hc : b.ht.handleCtr = a.ht.handleCtr) :
    b.freshHandle = a.freshHandle := by
  simp only [Dev.freshHandle, Dev.usedHandles, same_ownHoldings h, same_forced h, hc]

/-! ### What a staging changes (R49, R111, R161) -/

/-- From one part to another a claim has been staged: its record and its passed test, its handle taken, its region
marked or its entry STAGED, and no other. -/
structure Staging (d x : Dev) (c : Claim) : Prop where
  record : c = nextClaim c.cls c.target c.tag d
  passes : d.firstFail c.cls c.target.region = none
  handleCtr : x.ht.handleCtr = d.freshHandle + 1
  marks : ∀ n, x.rs.regionAt n =
    if c.tag = none ∧ n = c.target.region then { d.rs.regionAt n with stagedRfb := true } else d.rs.regionAt n
  states : x.oqs.queue.map (fun e => (e.tag, e.staged)) =
    d.oqs.queue.map (fun e => (e.tag, e.staged || some e.tag == c.tag))
  refresh : c.tag = none → c.cls = .rfb ∧ c.target.group = (d.rs.regionAt c.target.region).pointer
  entry : ∀ t, c.tag = some t → ∃ e ∈ d.oqs.queue, e.tag = t ∧ e.staged = false ∧ c.cls = e.cls ∧
    c.target = { region := e.region.getD 0, group := 0 }

/-- Entries passed over change their bypass counts alone. -/
theorem bump_map_queue {α : Type} (f : Entry → α) (hf : ∀ e n, f { e with bypass := n } = f e) (passed : List Byte)
    (d : Dev) : (d.bump passed).oqs.queue.map f = d.oqs.queue.map f := by
  unfold Dev.bump
  rw [List.map_map]
  refine List.map_congr_left (fun e _ => ?_)
  rw [Function.comp_apply]
  split_ifs
  · exact hf e _
  · rfl

/-- A staged entry becomes STAGED, and no other. -/
theorem entryStaged_states (e : Entry) (d : Dev) :
    (entryStaged e d).oqs.queue.map (fun y => (y.tag, y.staged)) =
      d.oqs.queue.map (fun y => (y.tag, y.staged || some y.tag == some e.tag)) := by
  rw [entryStaged, modEntry_eq, stageClaim_eq, List.map_map]
  refine List.map_congr_left (fun y _ => ?_)
  rw [Function.comp_apply]
  split_ifs with h <;> simp [h]

theorem regionAt_modRegion_ite (r : Rs) (n x : RegionNo) (f : Region → Region) :
    (r.modRegion n f).regionAt x = if x = n then f (r.regionAt x) else r.regionAt x := by
  split_ifs with h
  · subst h; exact regionAt_modRegion r x f
  · exact regionAt_modRegion_ne r n x f h

theorem staging_refresh {d : Dev} {r : RegionNo} (passed : List Byte) (hpass : d.firstFail .rfb r = none) :
    Staging d ((d.bump passed).stageRfb r)
      (nextClaim .rfb { region := r, group := (d.rs.regionAt r).pointer } none d) where
  record := rfl
  passes := hpass
  handleCtr := rfl
  marks n := (regionAt_modRegion_ite _ _ _ _).trans (if_congr (by simp [nextClaim]) rfl rfl)
  states := (bump_map_queue _ (fun _ _ => rfl) passed d).trans (by simp [nextClaim])
  refresh _ := ⟨rfl, rfl⟩
  entry _ h := by cases h

theorem staging_entry {d : Dev} {e : Entry} (passed : List Byte) (he : e ∈ d.oqs.queue) (hq : e.staged = false)
    (hpass : d.testEntry e = none) :
    Staging d (entryStaged e (d.bump passed))
      (nextClaim e.cls { region := e.region.getD 0, group := 0 } (some e.tag) d) where
  record := rfl
  passes := hpass
  handleCtr := rfl
  marks n := by simp [nextClaim, entryStaged, Dev.stageClaim, Dev.bump]
  states := (entryStaged_states e _).trans (bump_map_queue _ (fun _ _ => rfl) passed d)
  refresh h := by cases h
  entry t h := by
    cases h
    exact ⟨e, he, rfl, hq, rfl, rfl⟩

theorem entry_of_nodup {o : Oqs} {e x : Entry} (hn : (o.queue.map Entry.tag).Nodup) (he : e ∈ o.queue)
    (hx : o.entry? e.tag = some x) : x = e :=
  List.inj_on_of_nodup_map hn (List.mem_of_find?_eq_some hx) he (entry_tag hx)

/-- A selection that fills the CLAIM slot has staged what it holds. -/
theorem Selected.staging {d x : Dev} {c : Claim} (h : Selected d x) (hn : (d.oqs.queue.map Entry.tag).Nodup)
    (hd : d.biu.outbox.claim = none) (hc : x.biu.outbox.claim = some c) : Staging d x c := by
  cases h with
  | nothing => rw [hd] at hc; cases hc
  | refresh r passed hpass =>
    cases hc
    exact staging_refresh passed hpass
  | entry e y passed he hq hpass hy =>
    obtain rfl := entry_of_nodup hn he hy
    cases hc
    exact staging_entry passed he hq hpass

/-! ### What the close stages -/

/-- A staging from the part as the selection finds it is one from the part as the step's effect left it. -/
theorem Staging.of_same {d m x : Dev} {c : Claim} (h : Staging m x c) (hs : d.SameButClose m)
    (hk : NothingStaged d m) : Staging d x c where
  record := by
    rw [nextClaim, ← same_freshHandle hs hk.handleCtr, ← same_urgentClaim hs]
    exact h.record
  passes := (same_firstFail hs _ _).symm.trans h.passes
  handleCtr := h.handleCtr.trans (by rw [same_freshHandle hs hk.handleCtr])
  marks n := by rw [h.marks n, hk.rs]
  states := h.states.trans (hk.map_queue _ (fun _ => rfl))
  refresh ht := by rw [← hk.rs]; exact h.refresh ht
  entry t ht := by
    obtain ⟨e, he, htag, hq, hcls, htarget⟩ := h.entry t ht
    obtain ⟨y, hy, heq⟩ := hk.mem_queue he
    obtain ⟨htag', hcls', hregion', -, -, -, hq', -⟩ := Entry.mk.inj heq
    exact ⟨y, hy, htag'.trans htag, hq'.trans hq, hcls.trans hcls'.symm, by rw [htarget, hregion']⟩

theorem Staging.keepSelTimer {d x : Dev} {c : Claim} (h : Staging d x c) : Staging d x.keepSelTimer c := by
  obtain ⟨record, passes, handleCtr, marks, states, refresh, entry⟩ := h
  rw [keepSelTimer_eq]
  exact ⟨record, passes, handleCtr, marks, states, refresh, entry⟩

/-- A close that fills the CLAIM slot made a selection, which staged what the slot holds. -/
theorem close_staging {b d : Dev} {c : Claim} (hn : (d.oqs.queue.map Entry.tag).Nodup)
    (hd : d.biu.outbox.claim = none) (hc : (Dev.close b d).biu.outbox.claim = some c) :
    Dev.SelectionDue b d ∧ d.selectable = true ∧ Staging d (Dev.close b d) c := by
  by_cases h : Dev.SelectionDue b d ∧ d.selectable = true
  · obtain ⟨x, hx, hclose⟩ := close_selects h.1 h.2
    have hs := (opened_same b d).trans (selecting_same _)
    have hk := (opened_stages b d).trans (selecting_stages _)
    have tags : ((selecting (opened b d)).oqs.queue.map Entry.tag).Nodup := by
      rwa [hk.map_queue Entry.tag (fun _ => rfl)]
    have slot : x.biu.outbox.claim = some c := by
      rw [← hc, hclose, (keepSelTimer_stages x).claim]
    rw [hclose]
    exact ⟨h.1, h.2, ((hx.staging tags (hk.claim.trans hd) slot).of_same hs hk).keepSelTimer⟩
  · rw [(close_stages_nothing h).claim, hd] at hc
    cases hc

/-- Settles O16: the close that filled the slot made a selection, which staged what passed its test. -/
theorem stagingFollowsAPassedSelection : Obligations.StagingFollowsAPassedSelection := by
  intro b d c hn hd hc
  obtain ⟨hdue, hs, staged⟩ := close_staging hn hd hc
  obtain ⟨-, hmember, hforced, hown, hplaces, hhold⟩ := (selectable_iff d).mp hs
  have hhandle : c.handle = d.freshHandle := by rw [staged.record]; rfl
  refine ⟨hdue, hmember, hforced, hown, hplaces, hhold, staged.passes,
    hhandle.trans (freshHandle_eq hforced hown), hhandle ▸ freshHandle_unused hforced hown,
    hhandle ▸ staged.handleCtr, staged.marks, staged.states, ?cancel, ?seq, ?urgent, ?timer, fun ht => ?refresh,
    fun t ht => ?entry⟩
  case cancel => rw [staged.record]; rfl
  case seq => rw [staged.record]; rfl
  case urgent =>
    have hurgent : c.urgent = d.urgentClaim c.cls := by rw [staged.record]; rfl
    simp [hurgent, Dev.urgentClaim]
  case timer =>
    by_contra hruns
    obtain ⟨hempty, -⟩ := (selectable_iff _).mp ((close_selTimer_runs_iff b d).mp hruns)
    rw [hc] at hempty
    cases hempty
  case refresh =>
    obtain ⟨hcls, hgroup⟩ := staged.refresh ht
    exact ⟨hcls, hgroup, by rw [staged.marks, if_pos ⟨ht, rfl⟩]⟩
  case entry =>
    obtain ⟨e, he, htag, hq, hcls, htarget⟩ := staged.entry t ht
    have hmem : (t, true) ∈ (Dev.close b d).oqs.queue.map (fun e => (e.tag, e.staged)) := by
      rw [staged.states]
      exact List.mem_map.mpr ⟨e, he, by simp [htag, ht]⟩
    obtain ⟨e', he', heq⟩ := List.mem_map.mp hmem
    obtain ⟨htag', hstaged'⟩ := Prod.mk.inj heq
    exact ⟨e, he, htag, hq, hcls, htarget, e', he', htag', hstaged'⟩

end Sys2Proof.ClaimLifeCycle
end

section
/-! PROOFS. A frame that passes every check of the receiver: what is left of it for the presence controller, and what
each kind does where no view is kept (R35, R37, R38, R82, R91). -/

namespace Sys2Proof.JoinResync

open Sys2Proof.Machine Sys2Proof.Laws Sys2Proof.BudgetBus

/-! ### Presence states (R79) -/

/-- A state with a board view is none without one. -/
theorem ne_of_noView {p q : Presence} (hp : p.keepsView = false) (hq : q.keepsView = true) : p ≠ q := by
  rintro rfl
  rw [hp] at hq
  cases hq

theorem up_of_keepsRoster {d : Dev} (h : d.pc.presence.keepsRoster = true) : d.Up := by
  intro hp
  rw [hp] at h
  cases h

theorem ne_configFault_of_keepsRoster {p : Presence} (h : p.keepsRoster = true) : p ≠ .configFault := by
  rintro rfl
  cases h

/-- The states that answer a JOIN and a RESYNC (R87, R95). -/
theorem answers_iff (d : Dev) : d.answers = true ↔
    d.pc.presence = .member ∨ d.pc.presence = .leaving ∨ d.pc.presence = .linkFault ∨
      (d.pc.presence = .syncing ∧ d.pc.syncCause = some .resync) := by
  unfold Dev.answers
  cases d.pc.presence <;> simp

theorem answerIfDue_answers {d : Dev} (h : d.answers = true) :
    d.answerIfDue = { d with biu := d.biu.placeAnswer d.answerGroup } := if_pos h

theorem answerIfDue_rests {d : Dev} (h : ¬ d.answers = true) : d.answerIfDue = d := if_neg h

/-! ### The test of the answers (R91) -/

theorem mem_stations (x : Station) : x ∈ stations := by
  revert x; decide

theorem checkAnswers_rests {d : Dev} (h : d.pc.window = none ∨ d.pc.presence ≠ .syncing) : d.checkAnswers = d := by
  unfold Dev.checkAnswers
  split
  · next w hw =>
    have hp : d.pc.presence ≠ .syncing := h.resolve_left (by simp [hw])
    simp [hp]
  · rfl

theorem checkAnswers_asks {d : Dev} {w : Window} (hp : d.pc.presence = .syncing) (hw : d.pc.window = some w) :
    d.checkAnswers = if d.answersComplete w then d.enterMember else d := by
  simp [Dev.checkAnswers, hw, hp]

/-- The answers are complete as every member that is not excluded has given all it announced. -/
theorem answersComplete_iff (d : Dev) (w : Window) : d.answersComplete w = true ↔
    ∀ x, d.pc.isMember x = true → (w.tallyAt x).excluded = false →
      (w.tallyAt x).summarySeen = true ∧ (w.tallyAt x).counted = (w.tallyAt x).announced := by
  have given (a b c : Bool) (p : Prop) [Decidable p] :
      (!a || b || (c && decide p)) = true ↔ (a = true → b = false → c = true ∧ p) := by
    cases a <;> cases b <;> simp
  unfold Dev.answersComplete
  rw [List.all_eq_true]
  exact ⟨fun h x => (given _ _ _ _).mp (h x (mem_stations x)), fun h x _ => (given _ _ _ _).mpr (h x)⟩

/-! ### A frame that is applied (R35, R37, R38) -/

/-- The part with a frame taken in and its own slot driven. -/
def acknowledged (d : Dev) : Dev := Dev.driveSlot { d with biu.busFree := false }

section Applied

variable {c : Instr} {s : State} {dt : Time} {hd : Head} {b : Body}

/-- A frame of a sender that is heard, or a JOIN, that is no repeat: it shows a configuration fault, or it is
acknowledged and applied. -/
theorem exec_checked (hp : s.dev.pc.presence.keepsRoster = true) (hs : hd.station ≠ s.dev.pc.station)
    (hh : (s.dev.pc.rosterAt hd.station).state ≠ .silent ∨ isJoinFrame b = true) (hr : s.dev.isRepeat hd = false)
    (hf : frameOf c = some (dt, hd, b)) (hc : b.costOk = true) :
    exec c s = .next (s.after dt ((cfgCheck s.dev.pc.budget b).elim
      (Dev.applyFrame hd b (acknowledged (s.dev.elapse dt))) (listened (s.dev.elapse dt)).configFault)) := by
  have hr' : (s.dev.elapse dt).isRepeat hd = false := hr
  rw [exec_received c s (up_of_keepsRoster hp) hf,
    receive_heard (d := s.dev.elapse dt) hc (ne_configFault_of_keepsRoster hp) hs hh, hr']
  rfl

theorem exec_applied (hp : s.dev.pc.presence.keepsRoster = true) (hs : hd.station ≠ s.dev.pc.station)
    (hh : (s.dev.pc.rosterAt hd.station).state ≠ .silent ∨ isJoinFrame b = true) (hr : s.dev.isRepeat hd = false)
    (hf : frameOf c = some (dt, hd, b)) (hc : b.costOk = true) (hcfg : cfgCheck s.dev.pc.budget b = none) :
    exec c s = .next (s.after dt (Dev.applyFrame hd b (acknowledged (s.dev.elapse dt)))) := by
  rw [exec_checked hp hs hh hr hf hc, hcfg]
  rfl

theorem exec_heard (h : s.dev.Hears hd) (hf : frameOf c = some (dt, hd, b)) (hc : b.costOk = true)
    (hcfg : cfgCheck s.dev.pc.budget b = none) :
    exec c s = .next (s.after dt (Dev.applyFrame hd b (acknowledged (s.dev.elapse dt)))) := by
  obtain ⟨hp, hs, hsilent, hr⟩ := h
  exact exec_applied hp hs (.inl hsilent) hr hf hc hcfg

/-- A frame of which the holding table takes nothing goes to the presence controller alone. -/
theorem applyFrame_passes {d : Dev} (h : d.pc.presence.keepsView = false ∨ d.tableApply hd.station b = d) :
    Dev.applyFrame hd b d = (d.presenceApply hd b).checkAnswers := by
  unfold Dev.applyFrame
  rcases h with hv | ht
  · simp [hv]
  · simp [ht]

end Applied

/-! ### What the presence controller does in other states (R89, R93) -/

theorem summaryApplied_rests {d : Dev} (x : Station) (f : Byte) (t n : Word16) (h : d.pc.presence ≠ .syncing) :
    d.summaryApplied x f t n = d := if_neg h

theorem beaconApplied_rests {d : Dev} (x : Station) (g : Word16) {f : Byte}
    (h : ¬ (d.pc.presence = .member ∧ f.getLsbD 7 = false)) : d.beaconApplied x g f = d :=
  if_neg fun ⟨hp, hf, _⟩ => h ⟨hp, hf⟩

/-- Without a view no frame but a JOIN or a LEAVE does more than update the roster (R82). -/
theorem presenceApply_noView {d : Dev} {hd : Head} {b : Body} (hv : d.pc.presence.keepsView = false)
    (hj : isJoinFrame b = false) (hl : b ≠ .leave) : (acknowledged d).presenceApply hd b = Dev.heard hd d := by
  cases b with
  | join => cases hj
  | leave => exact absurd rfl hl
  | beacon g f => exact beaconApplied_rests (d := Dev.heard hd d) _ _ fun h => ne_of_noView hv rfl h.1
  | resync =>
    refine answerIfDue_rests (d := Dev.heard hd d) fun h => ?_
    rcases (answers_iff _).mp h with hp | hp | hp | ⟨hp, -⟩
    all_goals exact ne_of_noView hv rfl hp
  | summary f t n => exact summaryApplied_rests (d := Dev.heard hd d) _ _ _ _ (ne_of_noView hv rfl)
  | holding => exact if_neg (Bool.eq_false_iff.mp hv)
  | _ => rfl

theorem applyFrame_noView {d : Dev} {hd : Head} {b : Body} (hv : d.pc.presence.keepsView = false)
    (hj : isJoinFrame b = false) (hl : b ≠ .leave) : Dev.applyFrame hd b (acknowledged d) = Dev.heard hd d := by
  have hpass := applyFrame_passes (hd := hd) (b := b) (d := acknowledged d) (.inl hv)
  rw [hpass, presenceApply_noView hv hj hl]
  exact checkAnswers_rests (.inr (ne_of_noView hv rfl))

/-- Without a view a frame heard that shows no configuration fault updates the roster alone (R82, R84). -/
theorem exec_rosterAlone {c : Instr} {s : State} {dt : Time} {hd : Head} {b : Body}
    (hv : s.dev.pc.presence.keepsView = false) (h : s.dev.Hears hd) (hf : frameOf c = some (dt, hd, b))
    (hc : b.costOk = true) (hcfg : cfgCheck s.dev.pc.budget b = none) (hj : isJoinFrame b = false)
    (hl : b ≠ .leave) : exec c s = .next (s.after dt (Dev.heard hd (s.dev.elapse dt))) := by
  rw [exec_heard h hf hc hcfg, applyFrame_noView (d := s.dev.elapse dt) hv hj hl]

/-- A claim with its class's own cost passes check 5 (R35). -/
theorem claimCostOk_units (c : Cls) : claimCostOk c.code (nat8 c.units) = true := by
  cases c <;> rfl

theorem cfgCheck_summary {budget : BitVec 2} {f : Byte} (t n : Word16) (h : budgetBits f = budget) :
    cfgCheck budget (.summary f t n) = none := if_neg (not_not.mpr h)

theorem cfgCheck_beacon {budget : BitVec 2} {f : Byte} (g : Word16) (h : budgetBits f = budget) :
    cfgCheck budget (.beacon g f) = none := if_neg (not_not.mpr h)

/-- What hearing a sender does to the roster records (R82). -/
theorem rosterAt_heard (hd : Head) (d : Dev) (x : Station) : (Dev.heard hd d).pc.rosterAt x =
    if x = hd.station then RosterRec.hear d.now hd.seq (d.pc.rosterAt x) else d.pc.rosterAt x := by
  split_ifs with hx
  · rw [hx]
    exact rosterAt_modRoster d.pc hd.station _
  · exact rosterAt_modRoster_ne d.pc hd.station x _ hx

/-- Settles O32: no kind but JOIN and LEAVE does more without a view, and hearing a sender changes its record. -/
theorem framesWithoutAViewUpdateTheRosterAlone : Obligations.FramesWithoutAViewUpdateTheRosterAlone := by
  refine ⟨fun s dt hd hv h => ?_, fun hd d x => ⟨rosterAt_heard hd d x, rfl⟩⟩
  have alone {c : Instr} {b : Body} (hf : frameOf c = some (dt, hd, b)) := exec_rosterAlone hv h hf
  exact ⟨
    fun _ c _ => ⟨alone rfl (claimCostOk_units c) rfl rfl nofun, alone rfl (claimCostOk_units c) rfl rfl nofun⟩,
    fun _ _ => ⟨alone rfl rfl rfl rfl nofun, alone rfl rfl rfl rfl nofun⟩,
    alone rfl rfl rfl rfl nofun, alone rfl rfl rfl rfl nofun, alone rfl rfl rfl rfl nofun,
    fun _ => ⟨alone rfl rfl rfl rfl nofun, alone rfl rfl rfl rfl nofun, alone rfl rfl rfl rfl nofun⟩,
    fun _ _ _ _ _ _ => alone rfl rfl rfl rfl nofun,
    fun _ t n hf => alone rfl rfl (cfgCheck_summary t n hf) rfl nofun,
    fun g _ hf => alone rfl rfl (cfgCheck_beacon g hf) rfl nofun⟩

end Sys2Proof.JoinResync
end

section
/-! PROOFS. HOLDING and SUMMARY where a view is kept, with the tallies of an open window (R89, R90, R140, R151, logs 19,
35). -/

namespace Sys2Proof.JoinResync

open Sys2Proof.Machine Sys2Proof.Laws Sys2Proof.BudgetBus

/-! ### Tallies of an open window (R81, R86) -/

section Tallies

variable {d : Dev} {w : Window} (x : Station) (f : Tally → Tally)

theorem modTally_closed (h : d.pc.window = none) : d.modTally x f = d := by
  simp only [Dev.modTally, h]

theorem modTally_open (h : d.pc.window = some w) : d.modTally x f =
    { d with pc.window := some { w with tallies := w.tallies.set x.toNat (f (w.tallyAt x)) x.isLt } } := by
  simp only [Dev.modTally, h]

theorem tallyAt_set (w : Window) (t : Tally) (y : Station) :
    ({ w with tallies := w.tallies.set x.toNat t x.isLt } : Window).tallyAt y = if y = x then t else w.tallyAt y := by
  unfold Window.tallyAt
  split_ifs with h
  · simp [h]
  · have hn : x.toNat ≠ y.toNat := fun e => h (BitVec.eq_of_toNat_eq e.symm)
    simp [hn]

theorem modTally_becomes (d : Dev) : TallyBecomes x f d (d.modTally x f) :=
  ⟨modTally_closed x f, fun w hw => ⟨_, modTally_open x f hw, rfl, tallyAt_set x w (f (w.tallyAt x))⟩⟩

theorem modTally_congr {f g : Tally → Tally} (hw : d.pc.window = some w)
    (h : f (w.tallyAt x) = g (w.tallyAt x)) : d.modTally x f = d.modTally x g := by
  rw [modTally_open x f hw, modTally_open x g hw, h]

end Tallies

/-! ### A frame for the presence controller (R38) -/

/-- A frame heard, of a kind that the holding table takes nothing of, is applied by the presence controller. -/
theorem exec_presence {c : Instr} {s : State} {dt : Time} {hd : Head} {b : Body} {x : Dev} (h : s.dev.Hears hd)
    (hf : frameOf c = some (dt, hd, b)) (hc : b.costOk = true) (hcfg : cfgCheck s.dev.pc.budget b = none)
    (ht : ∀ (d : Dev) (y : Station), d.tableApply y b = d)
    (hx : (acknowledged (s.dev.elapse dt)).presenceApply hd b = x) :
    exec c s = .next (s.after dt x.checkAnswers) := by
  rw [exec_heard h hf hc hcfg, applyFrame_passes (.inr (ht _ _)), hx]

/-! ### HOLDING (R90) -/

/-- A HOLDING answer counted in its sender's tally, in SYNCING alone. -/
def countedAnswer (x : Station) (d : Dev) : Dev :=
  if d.pc.presence = .syncing then d.modTally x Tally.countHolding else d

section HoldingAnswer

variable {d : Dev} {x : Station} {h c u t e r : Byte} {cls : Cls}

theorem holdingApplied_badClass (hc : Cls.ofCode c = none) : d.holdingApplied x h c u t e r = d := by
  simp only [Dev.holdingApplied, hc]

theorem holdingApplied_badCost (hc : Cls.ofCode c = some cls) (hu : u.toNat ≠ cls.units) :
    d.holdingApplied x h c u t e r = d := by
  simp only [Dev.holdingApplied, hc, if_pos hu]

variable (hc : Cls.ofCode c = some cls) (hu : u.toNat = cls.units)

include hc hu

theorem holdingApplied_confirms {y : Holding} (hy : findHolding x h d.ht.holdings = some y) :
    d.holdingApplied x h c u t e r = (countedAnswer x { d with
      ht.holdings := insertHolding (answerRecord d.now x h y.cls y.target e r) d.ht.holdings }).prompt := by
  simp only [Dev.holdingApplied, hc, if_neg (not_not.mpr hu), hy, countedAnswer]

theorem holdingApplied_stores (hn : findHolding x h d.ht.holdings = none) (hl : d.ht.holdings.length < 32) :
    d.holdingApplied x h c u t e r = (countedAnswer x { d with
      ht.holdings := insertHolding (answerRecord d.now x h cls (Target.ofByte t) e r) d.ht.holdings }).prompt := by
  have room : d.ht.holdings.length < Config.holdingsCap := hl
  simp only [Dev.holdingApplied, hc, if_neg (not_not.mpr hu), hn, if_pos room, countedAnswer]

theorem holdingApplied_full (hn : findHolding x h d.ht.holdings = none) (hl : 32 ≤ d.ht.holdings.length) :
    d.holdingApplied x h c u t e r = (countedAnswer x (d.contest x)).prompt := by
  have full : ¬ d.ht.holdings.length < Config.holdingsCap := Nat.not_lt.mpr hl
  simp only [Dev.holdingApplied, hc, if_neg (not_not.mpr hu), hn, if_neg full, countedAnswer]

end HoldingAnswer

theorem cls_ofCode_code (c : Cls) : Cls.ofCode c.code = some c := by
  cases c <;> rfl

theorem toNat_units (c : Cls) : (nat8 c.units).toNat = c.units := by
  cases c <;> rfl

/-- Codes above 3 name no class (R186). -/
theorem cls_ofCode_none {k : Byte} (h : 3 < k.toNat) : Cls.ofCode k = none := by
  obtain ⟨n, hn⟩ := Nat.exists_eq_add_of_lt h
  unfold Cls.ofCode
  rw [hn, show 3 + n + 1 = n + 4 by omega]
  rfl

theorem exec_holdingReceived {s : State} {dt : Time} {hd : Head} {h c u t e r : Byte} {x : Dev}
    (hv : s.dev.pc.presence.keepsView = true) (hh : s.dev.Hears hd)
    (hx : (Dev.heard hd (s.dev.elapse dt)).holdingApplied hd.station h c u t e r = x) :
    exec (.holdingReceived dt hd h c u t e r) s = .next (s.after dt x.checkAnswers) :=
  exec_presence hh rfl rfl rfl (fun _ _ => rfl) ((if_pos hv).trans hx)

/-- Settles O37, by the record under the answer's key and the room in the list. -/
theorem receivedHoldingConfirmsOrStores : Obligations.ReceivedHoldingConfirmsOrStores := by
  intro s dt hd h c u t e r hv hh
  refine ⟨fun hu y hy => ?confirms, fun hu hn hl => ?stores, fun hu hn hl => ?full, fun hu => ?badCost,
    fun k hk => ?badClass, fun e x g => modTally_becomes x g e, fun y => rfl⟩
  case confirms => exact exec_holdingReceived hv hh (holdingApplied_confirms (cls_ofCode_code c) (hu ▸ toNat_units c) hy)
  case stores => exact exec_holdingReceived hv hh (holdingApplied_stores (cls_ofCode_code c) (hu ▸ toNat_units c) hn hl)
  case full => exact exec_holdingReceived hv hh (holdingApplied_full (cls_ofCode_code c) (hu ▸ toNat_units c) hn hl)
  case badCost => exact exec_holdingReceived hv hh (holdingApplied_badCost (cls_ofCode_code c) hu)
  case badClass => exact exec_holdingReceived hv hh (holdingApplied_badClass (cls_ofCode_none hk))

/-! ### An entry placed by its distance behind next-ticket (R140, R151) -/

section Placed

variable {next t : Word16} {x : Station} {e : Station × Word16} {q : List (Station × Word16)}

/-- The entry is placed before one that is nearer to next-ticket, or as near and of a higher station. -/
theorem nearer_iff : (ticketDistance next e.2 < ticketDistance next t
      || (ticketDistance next e.2 == ticketDistance next t && decide (x < e.1))) = true ↔
    (next - e.2).toNat < (next - t).toNat ∨ ((next - e.2).toNat = (next - t).toNat ∧ x < e.1) := by
  simp only [Bool.or_eq_true, Bool.and_eq_true, decide_eq_true_eq, beq_iff_eq]
  exact Iff.rfl

theorem calInsert_before (h : (next - e.2).toNat < (next - t).toNat ∨
    ((next - e.2).toNat = (next - t).toNat ∧ x < e.1)) : calInsert next x t (e :: q) = (x, t) :: e :: q :=
  if_pos (nearer_iff.mpr h)

theorem calInsert_behind (h : ¬ ((next - e.2).toNat < (next - t).toNat ∨
    ((next - e.2).toNat = (next - t).toNat ∧ x < e.1))) : calInsert next x t (e :: q) = e :: calInsert next x t q :=
  if_neg (mt nearer_iff.mp h)

theorem calInsert_tail (h : ∀ e ∈ q, (next - t).toNat ≤ (next - e.2).toNat ∧
    ((next - t).toNat = (next - e.2).toNat → e.1 ≤ x)) : calInsert next x t q = q ++ [(x, t)] := by
  induction q with
  | nil => rfl
  | cons e q ih =>
    obtain ⟨hle, htie⟩ := h e List.mem_cons_self
    rw [calInsert_behind, ih fun e he => h e (List.mem_cons_of_mem _ he), List.cons_append]
    rintro (hlt | ⟨heq, hlt⟩)
    · exact absurd hlt (Nat.not_lt.mpr hle)
    · exact absurd hlt (BitVec.not_lt.mpr (htie heq.symm))

end Placed

/-! ### SUMMARY (R89) -/

theorem noSummary_iff (w : Window) : w.noSummary = true ↔ ∀ y, (w.tallyAt y).summarySeen = false := by
  simp [Window.noSummary, mem_stations]

/-- The plea and the calibration entry that a SUMMARY gives its sender (R89, R151). -/
def summaryTaken (x : Station) (f : Byte) (t : Word16) (d : Dev) : Dev := { d with
  ht.pleas := if f.getLsbD 7 then d.ht.pleas ||| maskBit x else d.ht.pleas &&& ~~~maskBit x,
  ht.calQueue :=
    if f.getLsbD 6 then calInsert d.ht.nextTicket x t (d.ht.calQueue.filter (fun e => e.1 != x))
    else d.ht.calQueue.filter (fun e => e.1 != x) }

section SummaryAnswer

variable {d : Dev} (x : Station) (f : Byte) (t n : Word16) (hp : d.pc.presence = .syncing)

include hp

theorem summaryApplied_closed (hw : d.pc.window = none) : d.summaryApplied x f t n = summaryTaken x f t d := by
  unfold Dev.summaryApplied
  simp only [if_pos hp, hw]
  exact modTally_closed x _ hw

/-- In an open window next-ticket is taken from the first SUMMARY, and the sender's tally starts again (R89). -/
theorem summaryApplied_open {w : Window} (hw : d.pc.window = some w) : d.summaryApplied x f t n =
    Dev.modTally x (fun _ => { summarySeen := true, announced := (f.extractLsb' 4 2).toNat, counted := 0,
                               excluded := (w.tallyAt x).excluded })
      { summaryTaken x f t d with
        ht.nextTicket := if ∀ y, (w.tallyAt y).summarySeen = false then n else d.ht.nextTicket } := by
  unfold Dev.summaryApplied
  simp only [if_pos hp, hw]
  by_cases hn : ∀ y, (w.tallyAt y).summarySeen = false
  · rw [if_pos hn, if_pos ((noSummary_iff w).mpr hn)]
    exact modTally_congr x hw rfl
  · rw [if_neg hn, if_neg (mt (noSummary_iff w).mp hn)]
    exact modTally_congr x hw rfl

end SummaryAnswer

theorem exec_summaryReceived {s : State} {dt : Time} {hd : Head} {f : Byte} {t n : Word16} {x : Dev}
    (hh : s.dev.Hears hd) (hf : budgetBits f = s.dev.pc.budget)
    (hx : (Dev.heard hd (s.dev.elapse dt)).summaryApplied hd.station f t n = x) :
    exec (.summaryReceived dt hd f t n) s = .next (s.after dt x.checkAnswers) :=
  exec_presence hh rfl rfl (cfgCheck_summary t n hf) (fun _ _ => rfl) hx

/-- Settles O38, by the state and the window; then the place of the entry. -/
theorem receivedSummaryRebuildsTheView : Obligations.ReceivedSummaryRebuildsTheView := by
  intro s dt hd f t n hv hh hf d x taken
  refine ⟨fun hp => ?other, fun hp hw => ?closed, fun w hp hw => ?opened, fun e g => modTally_becomes x g e,
    fun next t' q => calInsert_tail, fun next t' e q => calInsert_before, fun next t' e q => calInsert_behind⟩
  case other =>
    rw [exec_summaryReceived hh hf (summaryApplied_rests (d := Dev.heard hd d) x f t n hp),
      checkAnswers_rests (d := Dev.heard hd d) (.inr hp)]
  case closed =>
    have hx : (Dev.heard hd d).summaryApplied x f t n = taken := summaryApplied_closed x f t n hp hw
    rw [exec_summaryReceived hh hf hx, checkAnswers_rests (d := taken) (.inl hw)]
  case opened =>
    exact exec_summaryReceived hh hf (summaryApplied_open (d := Dev.heard hd d) x f t n hp hw)

end Sys2Proof.JoinResync
end

section
/-! PROOFS. RESYNC, BEACON, JOIN and LEAVE: the answers placed, the digests compared, and what a peer takes with it (R87,
R88, R93 to R95, R97). -/

namespace Sys2Proof.JoinResync

open Sys2Proof.Machine Sys2Proof.Laws Sys2Proof.BudgetBus

/-! ### Roster records (R81) -/

theorem modRoster_modRoster (x : Station) (f g : RosterRec → RosterRec) (d : Dev) :
    (d.modRoster x f).modRoster x g = d.modRoster x (fun r => g (f r)) := by
  simp [Dev.modRoster, Pc.modRoster, Pc.rosterAt]

/-- A sender heard that is not SILENT is a MEMBER. -/
theorem heard_member {d : Dev} {hd : Head} (h : d.Hears hd) :
    ((Dev.heard hd d).pc.rosterAt hd.station).state = .member := by
  obtain ⟨-, -, hsilent, -⟩ := h
  rw [rosterAt_heard, if_pos rfl]
  cases hst : (d.pc.rosterAt hd.station).state with
  | absent => simp [RosterRec.hear, hst]
  | member => simp [RosterRec.hear, hst]
  | silent => exact absurd hst hsilent

theorem heard_mismatch (d : Dev) (hd : Head) :
    ((Dev.heard hd d).pc.rosterAt hd.station).mismatch = (d.pc.rosterAt hd.station).mismatch := by
  rw [rosterAt_heard, if_pos rfl]
  rfl

/-! ### RESYNC (R88, R95) -/

theorem exec_resyncReceived {s : State} {dt : Time} {hd : Head} {x : Dev} (hh : s.dev.Hears hd)
    (hx : (Dev.heard hd (s.dev.elapse dt)).answerIfDue = x) :
    exec (.resyncReceived dt hd) s = .next (s.after dt x.checkAnswers) :=
  exec_presence hh rfl rfl rfl (fun _ _ => rfl) hx

/-! ### BEACON (R93, R94) -/

theorem startResync_eq (d : Dev) : d.startResync = { d with
    pc.roster := d.pc.roster.map (fun r => { r with mismatch := 0 }), pc.presence := .syncing,
    pc.syncCause := some .resync, pc.window := none, pc.resyncs := inc16 d.pc.resyncs,
    pu := d.pu.push (.state .syncing), biu := d.biu.placeResync } := rfl

/-- A mismatch count set just before all are cleared leaves no trace. -/
theorem clearMismatches_modRoster (x : Station) (n : Nat) (d : Dev) :
    (d.modRoster x (fun r => { r with mismatch := n })).clearMismatches = d.clearMismatches := by
  have roster : (d.pc.roster.set x.toNat { d.pc.rosterAt x with mismatch := n } x.isLt).map
      (fun r => { r with mismatch := 0 }) = d.pc.roster.map (fun r => { r with mismatch := 0 }) := by
    ext1 i hi
    rw [Vector.getElem_map, Vector.getElem_map, Vector.getElem_set]
    split_ifs with hx
    · subst hx; rfl
    · rfl
  exact congrArg (fun v => { d with pc.roster := v }) roster

theorem startResync_modRoster (x : Station) (n : Nat) (d : Dev) :
    (d.modRoster x (fun r => { r with mismatch := n })).startResync = d.startResync := by
  unfold Dev.startResync
  rw [clearMismatches_modRoster]

section Compared

variable {d : Dev} {x : Station} {g : Word16} {f : Byte} (hp : d.pc.presence = .member) (hf : f.getLsbD 7 = false)
  (hm : (d.pc.rosterAt x).state = .member)

include hp hf hm

theorem beaconApplied_matches (hg : g = d.ht.digest) :
    d.beaconApplied x g f = d.modRoster x (fun r => { r with mismatch := 0 }) := by
  simp only [Dev.beaconApplied, if_pos (And.intro hp (And.intro hf hm)), if_pos hg]

theorem beaconApplied_differs (hg : g ≠ d.ht.digest) : d.beaconApplied x g f =
    if 1 ≤ (d.pc.rosterAt x).mismatch then d.startResync
    else d.modRoster x (fun r => { r with mismatch := (d.pc.rosterAt x).mismatch + 1 }) := by
  simp only [Dev.beaconApplied, if_pos (And.intro hp (And.intro hf hm)), if_neg hg, startResync_modRoster,
    Nat.succ_le_succ_iff]

end Compared

theorem exec_beaconReceived {s : State} {dt : Time} {hd : Head} {g : Word16} {f : Byte} {x : Dev}
    (hh : s.dev.Hears hd) (hf : budgetBits f = s.dev.pc.budget)
    (hx : (Dev.heard hd (s.dev.elapse dt)).beaconApplied hd.station g f = x) :
    exec (.beaconReceived dt hd g f) s = .next (s.after dt x.checkAnswers) :=
  exec_presence hh rfl rfl (cfgCheck_beacon g hf) (fun _ _ => rfl) hx

/-- Settles O39: RESYNC by whether the state answers, BEACON by the digests and the count before. -/
theorem receivedResyncAndBeaconRepairTheView : Obligations.ReceivedResyncAndBeaconRepairTheView := by
  refine ⟨fun s dt hd hh => ?resync, fun s dt hd g f hh hf => ?beacon⟩
  case resync =>
    intro d group due
    have answers : (Dev.heard hd d).answers = true ↔ due := answers_iff _
    exact ⟨fun h => exec_resyncReceived hh (answerIfDue_answers (answers.mpr h)),
      fun h => exec_resyncReceived hh (answerIfDue_rests (mt answers.mp h))⟩
  case beacon =>
    intro d compared
    have hm : (d.pc.rosterAt hd.station).state = .member := heard_member (d := s.dev.elapse dt) hh
    have hn : (d.pc.rosterAt hd.station).mismatch = (s.dev.pc.rosterAt hd.station).mismatch :=
      heard_mismatch (s.dev.elapse dt) hd
    refine ⟨fun h => exec_beaconReceived hh hf (beaconApplied_rests (d := d) _ _ h), fun ⟨hp, hs⟩ hg => ?same,
      fun ⟨hp, hs⟩ hg h0 => ?first, fun ⟨hp, hs⟩ hg h1 => ?second⟩
    case same =>
      rw [exec_beaconReceived hh hf (beaconApplied_matches (d := d) hp hs hm hg), checkAnswers_rests (.inr ?_)]
      exact ne_of_eq_of_ne hp nofun
    case first =>
      have hx := beaconApplied_differs (d := d) hp hs hm hg
      rw [hn, h0, if_neg (Nat.not_succ_le_zero 0)] at hx
      rw [exec_beaconReceived hh hf hx, checkAnswers_rests (.inr ?_)]
      exact ne_of_eq_of_ne hp nofun
    case second =>
      have hx := beaconApplied_differs (d := d) hp hs hm hg
      rw [hn, if_pos h1] at hx
      rw [exec_beaconReceived hh hf hx, checkAnswers_rests (.inl rfl), startResync_eq]

/-! ### The part of a station in the view (R24) -/

theorem mentions_iff (h : Ht) (x : Station) : h.mentions x = true ↔
    (∃ y ∈ h.holdings, y.station = x) ∨ inMask h.pleas x = true ∨ ∃ y ∈ h.calQueue, y.1 = x := by
  simp only [Ht.mentions, Bool.or_eq_true, List.any_eq_true, beq_iff_eq, or_assoc]

section Dropped

variable {d : Dev} (x : Station)

theorem dropStation_noView (hv : d.pc.presence.keepsView = false) : d.dropStation x = d :=
  if_neg (Bool.eq_false_iff.mp hv)

variable (hv : d.pc.presence.keepsView = true)

include hv

theorem dropStation_absent (h : d.ht.mentions x = false) : d.dropStation x = d :=
  (if_pos hv).trans (if_neg (Bool.eq_false_iff.mp h))

theorem dropStation_mentioned (h : d.ht.mentions x = true) :
    d.dropStation x = ({ d with ht := d.ht.dropStation x }).prompt :=
  (if_pos hv).trans (if_pos h)

end Dropped

/-! ### JOIN and LEAVE (R87, R97) -/

/-- A JOIN of version 1 and the own budget code shows no configuration fault. -/
theorem cfgCheck_join {budget : BitVec 2} {b : Byte} (h : budgetBits b = budget) :
    cfgCheck budget (.join b 1) = none := by
  simp [cfgCheck, h]

theorem leaveApplied_heard (d : Dev) (hd : Head) : (Dev.heard hd d).leaveApplied hd.station =
    Dev.dropStation hd.station (Dev.excludeTally hd.station ((acknowledged d).modRoster hd.station
      RosterRec.cleared)) := by
  have hrec : (Dev.heard hd d).modRoster hd.station RosterRec.cleared =
      (acknowledged d).modRoster hd.station RosterRec.cleared := modRoster_modRoster _ _ _ _
  rw [Dev.leaveApplied, hrec]

/-- Settles O40: what each frame does, and then the part of a station that goes with it. -/
theorem receivedJoinAndLeaveDropTheSendersPart : Obligations.ReceivedJoinAndLeaveDropTheSendersPart := by
  intro s dt hd d x
  refine ⟨fun b ⟨hp, hs, hr⟩ hb => ?join, fun hh => ?leave, fun e => modTally_becomes x _ e,
    fun h => mentions_iff h x, fun e => dropStation_noView x, fun e => dropStation_absent x,
    fun e => dropStation_mentioned x⟩
  case join =>
    rw [exec_applied hp hs (.inr rfl) hr rfl rfl (cfgCheck_join hb), applyFrame_passes (.inr rfl)]
    rfl
  case leave => exact exec_presence hh rfl rfl rfl (fun _ _ => rfl) (leaveApplied_heard (s.dev.elapse dt) hd)

end Sys2Proof.JoinResync
end

section
/-! PROOFS. CONFIG_FAULT: the frames that lead into it, its entry, and what emptying the outbox leaves (R45, R101, R102,
logs 14, 17, 42). -/

namespace Sys2Proof.JoinResync

open Sys2Proof.Machine Sys2Proof.Laws Sys2Proof.BudgetBus Sys2Proof.ClaimLifeCycle

/-! ### The frames that lead into it (R101) -/

theorem configFault_eq (c : CfgCause) (d : Dev) : d.configFault c = { Dev.emptyOutbox
    { d with pc.presence := .configFault, pc.syncCause := none, pc.cfgCause := some c, pc.window := none,
             pc.listenEnds := none, pc.beaconEnds := none,
             pu := (d.pu.push (.state .configFault)).push (.alert (.configFault c)) } with
    rs.pleaMark := .none } := rfl

section Faulted

variable {c : Instr} {s : State} {dt : Time} {hd : Head} {b : Body}

theorem ownNumber_faults {d : Dev} (hp : d.pc.presence ≠ .configFault) :
    d.ownNumber = (listened d).configFault .duplicateStation := if_neg hp

theorem exec_ownNumber (hp : s.dev.pc.presence.keepsRoster = true) : exec (.frameBearingOwnNumber dt) s =
    .next (s.after dt ((listened (s.dev.elapse dt)).configFault .duplicateStation)) := by
  have hfault := ownNumber_faults (d := s.dev.elapse dt) (ne_configFault_of_keepsRoster hp)
  rw [← hfault]
  exact answer_act s dt Dev.ownNumber (up_of_keepsRoster hp)

/-- A frame with the own number in its station field leads there too. -/
theorem exec_ownStation (hp : s.dev.pc.presence.keepsRoster = true) (hs : hd.station = s.dev.pc.station)
    (hf : frameOf c = some (dt, hd, b)) (hc : b.costOk = true) :
    exec c s = .next (s.after dt ((listened (s.dev.elapse dt)).configFault .duplicateStation)) := by
  rw [exec_received c s (up_of_keepsRoster hp) hf,
    receive_ownNumber (d := s.dev.elapse dt) hc (ne_configFault_of_keepsRoster hp) hs]

variable {cause : CfgCause}

/-- A frame that passes the other checks and shows a configuration fault is neither acknowledged nor applied. -/
theorem exec_faulted (hp : s.dev.pc.presence.keepsRoster = true) (hs : hd.station ≠ s.dev.pc.station)
    (hh : (s.dev.pc.rosterAt hd.station).state ≠ .silent ∨ isJoinFrame b = true) (hr : s.dev.isRepeat hd = false)
    (hf : frameOf c = some (dt, hd, b)) (hc : b.costOk = true)
    (hcfg : cfgCheck s.dev.pc.budget b = some cause) :
    exec c s = .next (s.after dt ((listened (s.dev.elapse dt)).configFault cause)) := by
  rw [exec_checked hp hs hh hr hf hc, hcfg]
  rfl

theorem exec_joinFaults {budget version : Byte} (h : s.dev.HearsJoin hd)
    (hcfg : cfgCheck s.dev.pc.budget (.join budget version) = some cause) :
    exec (.joinReceived dt hd budget version) s =
      .next (s.after dt ((listened (s.dev.elapse dt)).configFault cause)) :=
  let ⟨hp, hs, hr⟩ := h
  exec_faulted hp hs (.inr rfl) hr rfl rfl hcfg

theorem exec_budgetFaults (h : s.dev.Hears hd) (hf : frameOf c = some (dt, hd, b)) (hc : b.costOk = true)
    (hcfg : cfgCheck s.dev.pc.budget b = some cause) :
    exec c s = .next (s.after dt ((listened (s.dev.elapse dt)).configFault cause)) :=
  let ⟨hp, hs, hsilent, hr⟩ := h
  exec_faulted hp hs (.inl hsilent) hr hf hc hcfg

theorem cfgCheck_version (budget : BitVec 2) (b : Byte) {v : Byte} (h : v ≠ 1) :
    cfgCheck budget (.join b v) = some .versionMismatch := if_pos h

theorem cfgCheck_joinBudget {budget : BitVec 2} {b : Byte} (h : budgetBits b ≠ budget) :
    cfgCheck budget (.join b 1) = some .budgetMismatch := by
  simp [cfgCheck, h]

end Faulted

/-! ### A STAGED claim unstaged (R51, R56) -/

theorem unstage_eq (c : Claim) (d : Dev) : d.unstage c = d.unstaged c := by
  cases ht : c.tag with
  | none => rw [unstage_refresh ht]; simp only [Dev.unstaged, ht]; rfl
  | some t => rw [unstage_entry ht, modEntry_eq]; simp only [Dev.unstaged, ht]; rfl

section Emptied

variable {d : Dev} {f : InHand} {c : Claim}

theorem inHandIs_empty (h : d.biu.inHand = none) (r : SlotRef) : d.biu.inHandIs r = false := by
  simp only [Biu.inHandIs, h]

theorem inHandIs_other {r : SlotRef} (h : d.biu.inHand = some f) (hr : f.ref ≠ r) : d.biu.inHandIs r = false := by
  simp [Biu.inHandIs, h, hr]

/-- With no claim in hand the one in the CLAIM slot is STAGED (R48). -/
theorem stagedClaim_eq (h : d.biu.inHandIs .claim = false) : d.biu.stagedClaim = d.biu.outbox.claim :=
  if_neg (Bool.eq_false_iff.mp h)

theorem anyUnstaged_outbox (h : d.biu.inHandIs .claim = false) :
    d.anyUnstaged.biu.outbox = { d.biu.outbox with claim := none } := by
  unfold Dev.anyUnstaged
  rw [stagedClaim_eq h]
  cases hc : d.biu.outbox.claim with
  | none => simp only [← hc]
  | some c => rfl

/-! ### The claim as the outbox is emptied (R45, R56, log 14) -/

theorem emptyClaim_staged (h : d.biu.inHandIs .claim = false) : d.emptyClaim = d.anyUnstaged := by
  unfold Dev.anyUnstaged Dev.emptyClaim
  rw [stagedClaim_eq h]
  cases hc : d.biu.outbox.claim with
  | none => rfl
  | some c =>
    cases hi : d.biu.inHand with
    | none => exact unstage_eq c d
    | some f =>
      have hr : f.ref ≠ .claim := by
        rintro hr
        simp [Biu.inHandIs, hi, hr] at h
      exact (if_neg hr).trans (unstage_eq c d)

theorem emptyClaim_delivered (hi : d.biu.inHand = some f) (hr : f.ref = .claim) (hc : d.biu.outbox.claim = some c)
    (hs : f.sending = false) (hd : f.delivered = true) : d.emptyClaim = d.clearClaimSlot := by
  simp only [Dev.emptyClaim, hi, hc, if_pos hr, hs, if_pos hd, Bool.false_eq_true, if_false]

theorem emptyClaim_undelivered (hi : d.biu.inHand = some f) (hr : f.ref = .claim) (hc : d.biu.outbox.claim = some c)
    (hs : f.sending = false) (hd : f.delivered = false) : d.emptyClaim = d.endClaim c := by
  simp only [Dev.emptyClaim, hi, hc, if_pos hr, hs, hd, Bool.false_eq_true, if_false]

/-! ### The outbox emptied (R45) -/

theorem emptyOutbox_rests (h : d.biu.attempting = false) :
    d.emptyOutbox = { d.emptyClaim with biu.outbox := Outbox.empty, biu.inHand := none } := by
  unfold Dev.emptyOutbox
  cases hi : d.biu.inHand with
  | none =>
    have hempty : d.emptyClaim.biu.inHand = none := (emptyClaim_inHand d).trans hi
    simp only [hempty]
  | some f =>
    have hs : f.sending = false := (attempting_of_inHand hi).symm.trans h
    have hwaits : d.emptyClaim.biu.inHand = some f := (emptyClaim_inHand d).trans hi
    simp only [hwaits, hs, Bool.false_eq_true, if_false]

theorem emptyOutbox_sends (h : d.Sends f) :
    d.emptyOutbox = { d.emptyClaim with biu.outbox := d.emptyClaim.biu.outbox.only f.ref } := by
  obtain ⟨hi, hs⟩ := h
  have hsends : d.emptyClaim.biu.inHand = some f := (emptyClaim_inHand d).trans hi
  unfold Dev.emptyOutbox
  simp only [hsends, if_pos hs]

theorem only_unclaimed {r : SlotRef} (hr : r ≠ .claim) (o : Outbox) (c : Option Claim) :
    Outbox.only r { o with claim := c } = o.only r := by
  cases r with
  | claim => exact absurd rfl hr
  | _ => rfl

theorem emptyOutbox_idle (h : d.biu.attempting = false) (hc : d.biu.inHandIs .claim = false) :
    d.emptyOutbox = { d.anyUnstaged with biu.outbox := Outbox.empty, biu.inHand := none } := by
  rw [emptyOutbox_rests h, emptyClaim_staged hc]

theorem emptyOutbox_sendsOther (h : d.Sends f) (hr : f.ref ≠ .claim) :
    d.emptyOutbox = { d.anyUnstaged with biu.outbox := d.biu.outbox.only f.ref } := by
  have hc : d.biu.inHandIs .claim = false := inHandIs_other h.1 hr
  rw [emptyOutbox_sends h, emptyClaim_staged hc, anyUnstaged_outbox hc, only_unclaimed hr]

theorem emptyOutbox_sendsClaim (h : d.Sends f) (hr : f.ref = .claim) (hc : d.biu.outbox.claim = some c) :
    d.emptyOutbox = { d with biu.outbox := { Outbox.empty with claim := some c } } := by
  rw [emptyOutbox_sends h, emptyClaim_sending h.1 hr h.2, hr, ← hc]
  rfl

end Emptied

/-- Settles O41: each frame by its cause, then the outbox by what is in hand. -/
theorem configurationFaultsAreEntered : Obligations.ConfigurationFaultsAreEntered := by
  refine ⟨fun s dt hd hp => ?frames, fun d => ?emptied, fun o h => ⟨rfl, rfl, rfl, rfl, rfl, rfl, rfl, rfl, rfl⟩⟩
  case frames =>
    exact ⟨exec_ownNumber hp, fun c b hf hs hc => exec_ownStation hp hs hf hc,
      fun h => ⟨fun b v hv => exec_joinFaults h (cfgCheck_version _ b hv),
        fun b hb => exec_joinFaults h (cfgCheck_joinBudget hb)⟩,
      fun h => ⟨fun g f hb => exec_budgetFaults h rfl rfl (if_pos hb),
        fun f t n hb => exec_budgetFaults h rfl rfl (if_pos hb)⟩⟩
  case emptied =>
    intro bare
    refine ⟨fun hi => emptyOutbox_idle (attempting_of_empty hi) (inHandIs_empty hi .claim),
      fun f hi hs hr => emptyOutbox_idle ((attempting_of_inHand hi).trans hs) (inHandIs_other hi hr),
      fun f h hr => emptyOutbox_sendsOther h hr, fun f c hi hr hc => ⟨fun hs => emptyOutbox_sendsClaim ⟨hi, hs⟩ hr hc,
        fun hs hd => ?_, fun hs hd => ?_⟩⟩
    · rw [emptyOutbox_rests ((attempting_of_inHand hi).trans hs), emptyClaim_delivered hi hr hc hs hd]
      rfl
    · rw [emptyOutbox_rests ((attempting_of_inHand hi).trans hs), emptyClaim_undelivered hi hr hc hs hd]

end Sys2Proof.JoinResync
end

section
/-! PROOFS. The timers of the presence controller, the drain of LEAVING, the entry into MEMBER, and what silence, expiry
and ageing drop (R3, R21, R75, R80, R83, R85, R91, R92, R96, R124, R129, logs 2, 4, 23). -/

namespace Sys2Proof.JoinResync

open Sys2Proof.Machine Sys2Proof.Laws Sys2Proof.ClaimLifeCycle

/-- The end of a timer that does not run is no event (log 4). -/
theorem answer_actAt_none (s : State) {timer : Option Time} (eff : Dev → Dev) (h : timer = none) :
    s.answer (Dev.actAt timer eff s.dev) = .next s := by
  rw [h]
  rfl

/-! ### The listen, collect and beacon timers (R85, R91, R92) -/

section Timers

variable {s : State} {t : Time} (hu : s.dev.Up)

include hu

theorem exec_listenTimerExpiry (ht : s.dev.pc.listenEnds = some t) :
    exec .listenTimerExpiry s = .next (s.afterEnd t (s.dev.elapseTo t).listenEnd) :=
  answer_actAt s Dev.listenEnd hu ht

theorem exec_collectTimerExpiry {w : Window} (hw : s.dev.pc.window = some w) (ht : w.ends = t) :
    exec .collectTimerExpiry s = .next (s.afterEnd t (s.dev.elapseTo t).enterMember) :=
  answer_actAt s Dev.enterMember hu (by rw [hw, ← ht]; rfl)

theorem exec_beaconTimerExpiry (ht : s.dev.pc.beaconEnds = some t) :
    exec .beaconTimerExpiry s = .next (s.afterEnd t ((s.dev.elapseTo t).beaconDue t)) := by
  refine (answer_actAt s (Dev.beaconDue (s.dev.pc.beaconEnds.getD 0)) hu ht).trans ?_
  rw [ht]
  rfl

end Timers

/-! ### The drain of LEAVING (R75, R96) -/

theorem ownHoldings_eq_nil (d : Dev) :
    d.ownHoldings = [] ↔ ∀ h ∈ d.ht.holdings, h.isOwn = false := by
  simp [Dev.ownHoldings]

/-- Whether OWN_HOLDINGS_DRAINED can take place. -/
def leavesNow (d : Dev) : Bool := d.pc.presence == .leaving && d.drained && !d.biu.outbox.joinLeave.holds .leave

theorem leavesNow_iff (d : Dev) : leavesNow d = true ↔ d.pc.presence = .leaving ∧
    (∀ h ∈ d.ht.holdings, h.isOwn = false) ∧ d.biu.outbox.release = [] ∧ d.biu.outbox.claim = none ∧
    d.biu.outbox.joinLeave.holds .leave = false := by
  simp only [leavesNow, Dev.drained, Bool.and_eq_true, beq_iff_eq, List.isEmpty_iff, ownHoldings_eq_nil,
    Option.isNone_iff_eq_none, Bool.not_eq_true', and_assoc]

theorem exec_ownHoldingsDrained (s : State) : exec .ownHoldingsDrained s =
    s.answer (Dev.act leavesNow (fun d => { d with biu := d.biu.placeJoin .leave }) s.dev) := rfl

/-- Settles O42, timer by timer; the drain by its condition. -/
theorem presenceTimersMoveTheStation : Obligations.PresenceTimersMoveTheStation := by
  refine ⟨fun s t hu => ⟨fun ht => exec_listenTimerExpiry hu ht, fun w => exec_collectTimerExpiry hu,
    fun ht => exec_beaconTimerExpiry hu ht, answer_actAt_none s _, fun hw => answer_actAt_none s _ ?noWindow,
    answer_actAt_none s _⟩, fun s => ?drain⟩
  case noWindow => rw [hw]; rfl
  case drain =>
    intro drained
    rw [exec_ownHoldingsDrained]
    refine ⟨fun h => ?_, fun h => ?_⟩
    · have hu : s.dev.Up := ne_of_eq_of_ne h.1 nofun
      rw [act_up _ _ _ hu ((leavesNow_iff s.dev).mpr h)]
      rfl
    · rw [act_not _ _ _ fun can => h ((leavesNow_iff s.dev).mp can.2)]
      rfl

/-! ### The entry into MEMBER (R80, R91, R92, R124, R129) -/

section Entered

variable (d : Dev)

theorem giveReady_eq : d.giveReady = { d with
    pc.readyGiven := true,
    pu := if d.pc.readyGiven then d.pu else d.pu.push (.ready d.pc.station d.units) } := by
  unfold Dev.giveReady
  split_ifs with h
  · rw [← h]
  · rfl

theorem startBeacons_eq : d.startBeacons = { d with
    biu := if d.pc.station = 0 then d.biu.placeBeacon else d.biu,
    pc.beaconEnds := some (d.now + if d.pc.station = 0 then us 2000 else us (100 * d.pc.station.toNat)) } := by
  unfold Dev.startBeacons
  split_ifs <;> rfl

theorem markPlea_eq : d.markPlea = { d with
    biu := if d.rs.urgency = .urgent then d.biu.placePlea .plea else d.biu,
    rs.pleaMark := if d.rs.urgency = .urgent then .plea else .clear } := by
  unfold Dev.markPlea
  cases d.rs.urgency <;> rfl

/-- MEMBER entered, but for the plea: STATE, READY, the mismatch counts and the beacon timer. -/
def memberEntered : Dev :=
  let told := Dev.enter .member { d with pc.syncCause := none, pc.window := none, pu.setupLock := true }
  told.giveReady.clearMismatches.startBeacons

theorem enterMember_eq : d.enterMember =
    (if d.pc.syncCause = some .resync then memberEntered d else (memberEntered d).markPlea).prompt := by
  simp only [Dev.enterMember, beq_iff_eq]
  rfl

theorem memberEntered_eq : memberEntered d = { d with
    pc := { d.pc with
      presence := .member, syncCause := none, window := none, readyGiven := true,
      roster := d.pc.roster.map (fun r => { r with mismatch := 0 }),
      beaconEnds := some (d.now + if d.pc.station = 0 then us 2000 else us (100 * d.pc.station.toNat)) },
    pu := if d.pc.readyGiven then Pu.push { d.pu with setupLock := true } (.state .member)
          else (Pu.push { d.pu with setupLock := true } (.state .member)).push (.ready d.pc.station d.units),
    biu := if d.pc.station = 0 then d.biu.placeBeacon else d.biu } := by
  rw [memberEntered, startBeacons_eq, giveReady_eq]
  rfl

end Entered

/-- Settles O43: the entry by the plea it brings, then the answers by their window. -/
theorem entryIntoMemberReleasesWhatWaited : Obligations.EntryIntoMemberReleasesWhatWaited := by
  intro d told beaconed pleads
  refine ⟨?entry, checkAnswers_rests, fun w hp hw => ?answers⟩
  case entry =>
    rw [enterMember_eq]
    by_cases hr : d.pc.syncCause = some .resync
    · have hpleads : ¬ pleads := fun h => h.1 hr
      rw [if_pos hr, if_neg hpleads, if_pos hr, memberEntered_eq]
    · have hpleads : pleads ↔ d.rs.urgency = .urgent := and_iff_right hr
      rw [if_neg hr, if_neg hr, markPlea_eq, memberEntered_eq]
      simp only [hpleads]
      rfl
  case answers =>
    intro complete
    have hcomplete : d.answersComplete w = true ↔ complete := answersComplete_iff d w
    rw [checkAnswers_asks hp hw]
    exact ⟨fun h => if_pos (hcomplete.mpr h), fun h => if_neg (mt hcomplete.mp h)⟩

/-! ### Silence (R83) -/

theorem silenceAt_member {d : Dev} {x : Station} {t : Time} (hk : d.pc.presence.keepsRoster = true)
    (hx : x ≠ d.pc.station) (hm : (d.pc.rosterAt x).state = .member) (ht : (d.pc.rosterAt x).lastHeard = some t) :
    d.silenceAt x = some (t + us 6000) := by
  simp [Dev.silenceAt, Pc.isMember, hk, hx, hm, ht, silenceTime]

theorem silenceAt_none {d : Dev} {x : Station} (h : x = d.pc.station ∨ (d.pc.rosterAt x).state ≠ .member) :
    d.silenceAt x = none := by
  have hn : d.pc.isMember x = false := by
    rcases h with h | h
    · simp [Pc.isMember, h]
    · simp [Pc.isMember, h]
  simp [Dev.silenceAt, hn]

theorem exec_silence {s : State} {x : Station} {t : Time} (hu : s.dev.Up) (ht : s.dev.silenceAt x = some t) :
    exec (.silence x) s = .next (s.afterEnd t ((s.dev.elapseTo t).fallSilent x)) :=
  answer_actAt s (Dev.fallSilent x) hu ht

/-! ### The expiry of a peer record (R21) -/

theorem expiryAt_peer {d : Dev} {x : Station} {h : Byte} {r : Holding} {b : Int} {e : Time}
    (hf : findHolding x h d.ht.holdings = some r) (hr : r.holder = .peer b e) : d.expiryAt x h = some e := by
  simp only [Dev.expiryAt, hf, Option.bind_some, Holding.expiry, hr]

theorem expiryAt_own {d : Dev} {x : Station} {h : Byte} {r : Holding} {p : OwnPart}
    (hf : findHolding x h d.ht.holdings = some r) (hr : r.holder = .own p) : d.expiryAt x h = none := by
  simp only [Dev.expiryAt, hf, Option.bind_some, Holding.expiry, hr]

theorem exec_peerExpiry {s : State} {x : Station} {h : Byte} {t : Time} (hu : s.dev.Up)
    (ht : s.dev.expiryAt x h = some t) :
    exec (.peerExpiry x h) s = .next (s.afterEnd t ((s.dev.elapseTo t).expirePeer x h)) :=
  answer_actAt s (Dev.expirePeer x h) hu ht

/-! ### The surge history (R3, log 23) -/

/-- The surge entries behind the oldest that have not aged out. -/
def surgeBehind (rest : List Time) (d : Dev) : Dev :=
  { d with ht.surge := rest.filter (fun t => d.now ≤ t + surgeTime) }

theorem exec_surgeEntryAgeing {s : State} {t : Time} {rest : List Time} (hu : s.dev.Up)
    (hs : s.dev.ht.surge = t :: rest) : exec .surgeEntryAgeing s =
      .next (s.afterEnd (t + us 1000) (surgeBehind rest (s.dev.elapseTo (t + us 1000)))) := by
  have hend : s.dev.ht.surge.head?.map (fun t => t + surgeTime) = some (t + us 1000) := by rw [hs]; rfl
  have htail : s.dev.ht.surge.tail = rest := by rw [hs]; rfl
  rw [← htail]
  exact answer_actAt s (surgeBehind s.dev.ht.surge.tail) hu hend

theorem mem_surge_elapse (d : Dev) (dt x : Time) :
    x ∈ (d.elapse dt).ht.surge ↔ x ∈ d.ht.surge ∧ d.now + dt ≤ x + us 1000 := by
  rw [elapse_ht, mem_ageSurge, Nat.max_eq_right (Nat.le_add_right _ _)]
  rfl

theorem surgeAdd_room {l : List Time} (t : Time) (h : l.length < 16) : surgeAdd t l = l ++ [t] :=
  congrArg (· ++ [t]) (if_pos h)

theorem surgeAdd_full {x : Time} {l : List Time} (t : Time) (h : (x :: l).length = 16) :
    surgeAdd t (x :: l) = l ++ [t] := by
  have hdrop : (x :: l).length + 1 - Config.surgeCap = 1 := by rw [h]; rfl
  have hfull : ¬ (x :: l).length < Config.surgeCap := by rw [h]; exact lt_irrefl _
  rw [surgeAdd, if_neg hfull, hdrop]
  rfl

/-- Settles O44, event by event. -/
theorem silenceExpiryAndAgeingDropWhatIsStale : Obligations.SilenceExpiryAndAgeingDropWhatIsStale := by
  refine ⟨fun s x t hk => ⟨fun hx hm ht => ?silent, fun h => ?stands, fun e => modTally_becomes x _ e⟩,
    ⟨fun s x h r hu hf => ⟨fun b e hr => ?peer, fun p hr => ?own⟩, fun s t rest hu hs => exec_surgeEntryAgeing hu hs,
      mem_surge_elapse, fun t l => ⟨surgeAdd_length t l, surgeAdd_room t, ?full⟩⟩⟩
  case silent => exact exec_silence (up_of_keepsRoster hk) (silenceAt_member hk hx hm ht)
  case stands => exact answer_actAt_none s _ (silenceAt_none h)
  case peer => exact exec_peerExpiry hu (expiryAt_peer hf hr)
  case own => exact answer_actAt_none s _ (expiryAt_own hf hr)
  case full =>
    rintro x l' rfl h
    exact surgeAdd_full t h

end Sys2Proof.JoinResync
end

section
/-! PROOFS. The part held in reset, and its release (R79, R84, R106, R170, R184, R190, logs 1, 5, 7, 8). -/

namespace Sys2Proof.JoinResync

open Sys2Proof.Machine Sys2Proof.Laws

/-! ### While reset is held (R79, log 5) -/

section Held

variable {c : Instr} {s : State} (hp : s.dev.pc.presence = .offline)

include hp

theorem exec_transfer_held {dt : Time} (hi : isTransfer c = true) (ht : timeOf c = some dt) :
    exec c s = .next { s with dev := s.dev.elapse dt } := by
  cases c
  all_goals cases hi
  all_goals cases ht
  all_goals exact congrArg s.answer (onPort_held _ (s.dev.elapse dt) hp)

theorem exec_event_held {dt : Time} (hi : isTransfer c = false) (ht : timeOf c = some dt)
    (hr : ∀ dt sid bc cs, c ≠ .resetRelease dt sid ⟨bc, cs⟩) :
    exec c s = .next { s with dev := s.dev.elapse dt } := by
  cases c
  case resetRelease dt sid pins => exact absurd rfl (hr dt sid pins.budget pins.csLow)
  all_goals cases hi
  all_goals cases ht
  all_goals exact congrArg s.answer (act_not _ _ (s.dev.elapse dt) fun h => h.1 hp)

/-- A moment of the part's own comes at the end of its timer; the two conditions have none. -/
theorem exec_moment_held (ht : timeOf c = none) (hpor : c ≠ .powerOnReset) (hline : c ≠ .lineReset) :
    ∃ eff, exec c s = s.answer (Dev.actAt (s.dev.endOf c) eff s.dev) := by
  cases c
  case powerOnReset => exact absurd rfl hpor
  case lineReset => exact absurd rfl hline
  case ownHoldingsDrained | linkFaultRecovery =>
    exact ⟨id, congrArg s.answer (act_not _ _ s.dev fun h => h.1 hp)⟩
  case listenTimerExpiry | collectTimerExpiry | beaconTimerExpiry | silence | peerExpiry | surgeEntryAgeing
    | leaseTimerExpiry | accrualTimerExpiry | headTimerExpiry | selectionTimerExpiry | deadlinePasses =>
    exact ⟨_, rfl⟩
  all_goals cases ht

end Held

theorem actAt_held {d : Dev} (t : Time) (eff : Dev → Dev) (hp : d.pc.presence = .offline) :
    Dev.actAt (some t) eff d = d.elapseTo t := act_not always eff (d.elapseTo t) fun h => h.1 hp

theorem regionAt_held (k : ResetKind) (n : RegionNo) : (Dev.held k).rs.regionAt n = Region.fresh k :=
  Vector.getElem_replicate _

/-- Right after a reset no timer runs. -/
theorem endOf_held (k : ResetKind) (c : Instr) : (Dev.held k).endOf c = none := by
  cases c
  case accrualTimerExpiry r =>
    show (Dev.held k).accrualAt r = none
    rw [Dev.accrualAt, regionAt_held]
    rfl
  all_goals rfl

theorem elapse_held (k : ResetKind) (t dt : Time) :
    ({ Dev.held k with now := t } : Dev).elapse dt = { Dev.held k with now := t + dt } := by
  have hnow : max t (t + dt) = t + dt := Nat.max_eq_right (Nat.le_add_right t dt)
  exact congrArg (fun n => ({ Dev.held k with now := n } : Dev)) hnow

/-! ### The release (R84, R106, R190) -/

/-- Changes of several regions, no number twice: each takes its own. -/
theorem regionAt_foldl (f : RegionNo → Region → Region) (n : RegionNo) {l : List RegionNo} (hl : l.Nodup) (r : Rs) :
    (l.foldl (fun r m => r.modRegion m (f m)) r).regionAt n =
      if n ∈ l then f n (r.regionAt n) else r.regionAt n := by
  induction l generalizing r with
  | nil => rfl
  | cons m l ih =>
    obtain ⟨hm, hl⟩ := List.nodup_cons.mp hl
    rw [List.foldl_cons, ih hl]
    by_cases h : n = m
    · subst h
      simp [hm]
    · simp [h, regionAt_modRegion_ne _ _ _ _ h]

theorem regionAt_startTimers (now : Time) (r : Rs) (n : RegionNo) :
    (r.startTimers now).regionAt n = (r.regionAt n).startTimer (now + staggered n.toNat) := by
  have hmem : n ∈ regionNos := by revert n; decide
  refine (regionAt_foldl (fun n => Region.startTimer (now + staggered n.toNat)) n (by decide) r).trans ?_
  exact if_pos hmem

theorem staggered_eq (n : Nat) : staggered n = us (2000 * (n + 1)) := by
  show (n + 1) * (4 * 8000) / 4 = 4 * (2000 * (n + 1))
  omega

theorem budgetUnits_eq (bc : BitVec 2) :
    budgetUnits bc = if bc = 0#2 then 16 else if bc = 1#2 then 24 else if bc = 2#2 then 32 else 48 := by
  revert bc; decide

theorem exec_resetRelease {s : State} {k : ResetKind} {t dt : Time} {sid : BitVec 4} {pins : ReleasePins}
    (hs : s.dev = { Dev.held k with now := t }) : exec (.resetRelease dt sid pins) s =
      .next { s with dev := ({ Dev.held k with now := t + dt } : Dev).release sid pins } := by
  have hd : s.dev.elapse dt = { Dev.held k with now := t + dt } := by rw [hs, elapse_held]
  show s.answer (if (s.dev.elapse dt).pc.presence = .offline then (s.dev.elapse dt).release sid pins
    else s.dev.elapse dt) = _
  rw [hd]
  rfl

/-- The accrual timers as the release starts them, region by region. -/
theorem regionAt_release (k : ResetKind) (t : Time) (sid : BitVec 4) (pins : ReleasePins) (n : RegionNo) :
    (({ Dev.held k with now := t } : Dev).release sid pins).rs.regionAt n =
      { (Dev.held k).rs.regionAt n with timer := .running (t + us (2000 * (n.toNat + 1))) } := by
  have hstart := regionAt_startTimers t (Dev.held k).rs n
  rw [staggered_eq, regionAt_held] at hstart
  rw [regionAt_held]
  exact hstart

/-- Settles O4: what a held part does with each command, and what its release leaves. -/
theorem heldPartWaitsForItsRelease : Obligations.HeldPartWaitsForItsRelease := by
  refine ⟨⟨fun c s hp hpor hline hr => ⟨fun dt ht => ?outside, fun hn t he => ?moment, fun hn he => ?nothing⟩,
    endOf_held, fun d dt t => ⟨rfl, rfl⟩, elapse_held⟩, fun k s t dt sid bc cs hs => ?release⟩
  case outside =>
    cases hi : isTransfer c with
    | true => exact exec_transfer_held hp hi ht
    | false => exact exec_event_held hp hi ht hr
  case moment =>
    obtain ⟨eff, hexec⟩ := exec_moment_held hp hn hpor hline
    rw [hexec, he, actAt_held t eff hp]
    rfl
  case nothing =>
    obtain ⟨eff, hexec⟩ := exec_moment_held hp hn hpor hline
    rw [hexec, he]
    rfl
  case release =>
    refine ⟨_, exec_resetRelease hs, rfl, rfl, ?_⟩
    rw [hs]
    exact ⟨rfl, rfl, rfl, rfl, budgetUnits_eq bc, rfl, rfl, regionAt_release k (t + dt) sid ⟨bc, cs⟩⟩

end Sys2Proof.JoinResync
end

section
/-! PROOFS. What every step keeps of the retention scheduler: the debts and levels in range, EXEMPT regions at rest, and
the urgency state in agreement with the debts (R104, R105, R107, R128). -/

namespace Sys2Proof.RetentionDuty

open Sys2Proof.Machine Sys2Proof.Laws Sys2Proof.JoinResync

/-! ### One region (R104, R105, R107) -/

/-- A region whose timer runs is ACTIVE. -/
theorem active_of_running {x : Region} {t : Time} (h : x.Sound) (ht : x.timer = .running t) : x.exempt = false := by
  obtain ⟨-, -, rests⟩ := h
  rw [← Bool.not_eq_true]
  intro he
  have stopped := (rests he).2
  rw [ht] at stopped
  cases stopped

/-- An ACTIVE region is in order as its debt is in range. -/
theorem sound_of_active {x : Region} (he : x.exempt = false) (hlow : -8 ≤ x.debt) (hhigh : x.debt ≤ 8) : x.Sound :=
  ⟨hlow, hhigh, fun h => by rw [he] at h; cases h⟩

theorem stopTimer_sound (now : Time) (x : Region) (h : x.Sound) : (x.stopTimer now).Sound := by
  unfold Region.stopTimer
  split
  · next t ht =>
    have active := active_of_running h ht
    exact sound_of_active (x := { x with timer := .stopped (t - now) }) active h.1 h.2.1
  · exact h

/-- A timer that starts is that of an ACTIVE region (R105, R106). -/
theorem startTimer_sound (ends : Time) (x : Region) (h : x.Sound) : (x.startTimer ends).Sound := by
  unfold Region.startTimer
  split_ifs with he
  · exact h
  · exact sound_of_active (x := { x with timer := .running ends }) (Bool.eq_false_iff.mpr he) h.1 h.2.1

/-- RESUME restarts the timer of an ACTIVE region as it stands, or starts it (R122). -/
theorem restart_cases (now : Time) (x : Region) : x.restart now = x ∨ ∃ ends, x.restart now = x.startTimer ends := by
  unfold Region.restart Region.startTimer
  split_ifs
  · exact .inl rfl
  · split
    · exact .inr ⟨_, rfl⟩
    · exact .inl rfl

theorem restart_sound (now : Time) (x : Region) (h : x.Sound) : (x.restart now).Sound := by
  obtain hr | ⟨ends, hr⟩ := restart_cases now x
  · rwa [hr]
  · rw [hr]; exact startTimer_sound ends x h

/-! ### The regions together -/

/-- A change of one region that keeps that region in order keeps them all. -/
theorem modRegion_sound_at {r : Rs} {n : RegionNo} {f : Region → Region} (hf : (f (r.regionAt n)).Sound)
    (h : ∀ m, (r.regionAt m).Sound) (m : RegionNo) : ((r.modRegion n f).regionAt m).Sound := by
  by_cases hm : m = n
  · subst hm; rwa [regionAt_modRegion]
  · rw [regionAt_modRegion_ne _ _ _ _ hm]; exact h m

/-- A change of every region that keeps each in order keeps them all. -/
theorem map_sound {r : Rs} {f : Region → Region} (hf : ∀ x : Region, x.Sound → (f x).Sound)
    (h : ∀ n, (r.regionAt n).Sound) (n : RegionNo) :
    (Rs.regionAt { r with regions := r.regions.map f } n).Sound := by
  rw [regionAt_map]; exact hf _ (h n)

/-- The greatest debt follows the modes and the debts alone. -/
theorem greatestDebt_congr {a b : Rs} (he : ∀ n, (b.regionAt n).exempt = (a.regionAt n).exempt)
    (hd : ∀ n, (b.regionAt n).debt = (a.regionAt n).debt) : b.greatestDebt = a.greatestDebt := by
  simp only [Rs.greatestDebt, he, hd]

/-- What changes no mode, debt, level or urgency state keeps the whole in order if it keeps each region. -/
theorem sound_of_debts {a b : Rs} (ha : a.Sound) (hr : ∀ n, (b.regionAt n).Sound)
    (he : ∀ n, (b.regionAt n).exempt = (a.regionAt n).exempt) (hd : ∀ n, (b.regionAt n).debt = (a.regionAt n).debt)
    (hlevels : b.startLevel = a.startLevel ∧ b.endLevel = a.endLevel) (hu : b.urgency = a.urgency) : b.Sound := by
  obtain ⟨-, inRange⟩ := ha
  rw [← hlevels.1, ← hlevels.2, ← greatestDebt_congr he hd, ← hu] at inRange
  exact ⟨hr, inRange⟩

/-- A change of each region's timer alone that keeps each region in order keeps the whole in order, whatever becomes of
the hold flag. -/
theorem sound_of_timers {r : Rs} {f : Region → Region} (h : r.Sound) (hf : ∀ x : Region, x.Sound → (f x).Sound)
    (ht : ∀ x : Region, f x = { x with timer := (f x).timer }) (hold : Bool) :
    ({ r with regions := r.regions.map f, hold := hold } : Rs).Sound := by
  have region (n : RegionNo) :
      Rs.regionAt { r with regions := r.regions.map f, hold := hold } n = f (r.regionAt n) := regionAt_map r f n
  refine sound_of_debts h (fun n => map_sound hf h.1 n) (fun n => ?_) (fun n => ?_) ⟨rfl, rfl⟩ rfl
  · rw [region, ht]
  · rw [region, ht]

/-- A due evaluation of the urgency puts in order what the change before it kept in range. -/
theorem evalUrgency_sound_of {d e : Dev} (h : d.rs.Sound) (hr : ∀ n, (e.rs.regionAt n).Sound)
    (hlevels : e.rs.startLevel = d.rs.startLevel ∧ e.rs.endLevel = d.rs.endLevel) : e.evalUrgency.rs.Sound := by
  obtain ⟨-, hlow, hhigh, hend, -⟩ := h
  rw [← hlevels.1] at hlow hhigh hend
  rw [← hlevels.2] at hend
  exact evalUrgency_sound e hr hlow hhigh hend

/-! ### Accrual (R106, R108, R109) -/

/-- What a change makes of one region depends on that region alone. -/
theorem modRegion_congr {d : Dev} {r : RegionNo} {f g : Region → Region}
    (h : f (d.rs.regionAt r) = g (d.rs.regionAt r)) : d.modRegion r f = d.modRegion r g := by
  unfold Dev.modRegion Rs.modRegion
  rw [h]

/-- An accrual below +8: the debt rises, the timer restarts, and the urgency is evaluated. -/
theorem accrue_raises {d : Dev} {r : RegionNo} (t : Time) (h : (d.rs.regionAt r).debt < 8) : d.accrue r t =
    Dev.evalUrgency (d.modRegion r (fun x =>
      { x with debt := x.debt + 1, timer := .running (t + d.rs.grade.interval) })) := by
  unfold Dev.accrue Region.accrue
  dsimp only
  rw [decide_eq_true h, Bool.not_true, if_neg Bool.false_ne_true, modRegion_congr]
  rw [if_pos h]

/-- An accrual at +8: a lapse is counted and alerted as the count then stands, the timer restarts, and the urgency is
evaluated. -/
theorem accrue_lapses {d : Dev} {r : RegionNo} (t : Time) (h : 8 ≤ (d.rs.regionAt r).debt) : d.accrue r t =
    Dev.evalUrgency (Dev.notify (.alert (.lapse r (inc16 (d.rs.regionAt r).lapses)))
      (d.modRegion r (fun x => { x with lapses := inc16 x.lapses, timer := .running (t + d.rs.grade.interval) }))) := by
  have full : ¬ (d.rs.regionAt r).debt < 8 := not_lt.mpr h
  have counted : d.modRegion r (fun x => { x.accrue with timer := .running (t + d.rs.grade.interval) }) =
      d.modRegion r (fun x => { x with lapses := inc16 x.lapses, timer := .running (t + d.rs.grade.interval) }) :=
    modRegion_congr (by rw [Region.accrue, if_neg full])
  unfold Dev.accrue
  dsimp only
  rw [decide_eq_false full, Bool.not_false, if_pos rfl, counted, modRegion_rs, regionAt_modRegion]

theorem accrue_sound {d : Dev} {r : RegionNo} {t : Time} (h : d.rs.Sound) (ht : (d.rs.regionAt r).timer = .running t) :
    (d.accrue r t).rs.Sound := by
  have active := active_of_running (h.1 r) ht
  obtain ⟨hlow, hhigh, -⟩ := h.1 r
  by_cases hd : (d.rs.regionAt r).debt < 8
  · rw [accrue_raises t hd]
    refine evalUrgency_sound_of h (modRegion_sound_at ?_ h.1) ⟨rfl, rfl⟩
    exact sound_of_active active (by dsimp only; omega) (by dsimp only; omega)
  · rw [accrue_lapses t (not_lt.mp hd)]
    refine evalUrgency_sound_of h (modRegion_sound_at ?_ h.1) ⟨rfl, rfl⟩
    exact sound_of_active active hlow hhigh

/-! ### A credited refresh (R69) -/

theorem ownReleaseDelivered_sound {d : Dev} (x : Byte) (o : RelOutcome) (h : d.rs.Sound) :
    (d.ownReleaseDelivered x o).rs.Sound := by
  have notified (tag : Option Byte) (e : Dev) (he : e.rs = d.rs) :
      (match o, tag with | .cancelled, some t => e.notify (.cancelled t) | _, _ => e).rs = d.rs := by
    split <;> exact he
  have credited (p : Prop) [Decidable p] (r : RegionNo) (e : Dev) (he : e.rs = d.rs) :
      (if p then (e.modRegion r Region.credit).evalUrgency else e).rs.Sound := by
    split_ifs
    · have hcredit := modRegion_sound d.rs r _ credit_sound h.1
      rw [← he] at h hcredit
      exact evalUrgency_sound_of h hcredit ⟨rfl, rfl⟩
    · rwa [he]
  unfold Dev.ownReleaseDelivered
  split
  · exact h
  · exact credited _ _ _ (notified _ _ rfl)

/-- Of the own frames delivered, a RELEASE alone touches what the retention scheduler keeps in order. -/
theorem deliver_sound {d : Dev} (f : InHand) (h : d.rs.Sound) : (d.deliver f).rs.Sound := by
  unfold Dev.deliver
  split
  case h_1 => exact ownReleaseDelivered_sound _ _ h
  case h_3 => exact sound_of_core (ownClaimDelivered_core d _) h
  case h_6 =>
    split
    · rwa [ownIntentDelivered_rs]
    · exact h
  case h_9 => exact sound_of_core (ownResyncDelivered_core d) h
  case h_11 => exact sound_of_core (ownJoinDelivered_core d) h
  case h_12 => exact sound_of_core (ownLeaveDelivered_core d) h
  all_goals exact h

theorem sendComplete_sound {d : Dev} (acks : BitVec 16) (h : d.rs.Sound) : (d.sendComplete acks).rs.Sound := by
  unfold Dev.sendComplete
  split
  · exact h
  · refine sound_of_core (afterSend_core _) ?_
    split_ifs
    · exact deliver_sound _ h
    · exact h

/-! ### The release of reset and the requests (R106, R112, R119, R122 to R125) -/

theorem setupOk_iff (modes start stop : Byte) : setupOk modes start stop = true ↔
    modes.toNat < 16 ∧ 3 ≤ start.toNat ∧ start.toNat ≤ 7 ∧ stop.toNat < start.toNat := by
  simp only [setupOk, Bool.and_eq_true, decide_eq_true_eq, and_assoc]

theorem modRegion_self (r : Rs) (n : RegionNo) : r.modRegion n (fun x => x) = r := by
  unfold Rs.modRegion Rs.regionAt
  rw [Vector.set_getElem_self]

/-- A SETUP that is taken makes the named regions EXEMPT, and no other. -/
theorem regionAt_exemptRegions (modes : Byte) (r : Rs) (n : RegionNo) : (r.exemptRegions modes).regionAt n =
    if modes.getLsbD n.toNat = true then (r.regionAt n).makeExempt else r.regionAt n := by
  have hmem : n ∈ regionNos := by revert n; decide
  have change (r : Rs) (n : RegionNo) : (if modes.getLsbD n.toNat then r.modRegion n Region.makeExempt else r) =
      r.modRegion n (fun x => if modes.getLsbD n.toNat then x.makeExempt else x) := by
    split_ifs with hm
    · rfl
    · exact (modRegion_self r n).symm
  unfold Rs.exemptRegions
  simp only [change]
  refine (regionAt_foldl (fun n x => if modes.getLsbD n.toNat then x.makeExempt else x) n (by decide) r).trans ?_
  exact if_pos hmem

/-- Of the retention scheduler a SETUP's modes change the regions alone. -/
theorem exemptRegions_eq (modes : Byte) (r : Rs) :
    r.exemptRegions modes = { r with regions := (r.exemptRegions modes).regions } := by
  have keeps (l : List RegionNo) (r : Rs) :
      l.foldl (fun r n => if modes.getLsbD n.toNat then r.modRegion n Region.makeExempt else r) r =
        { r with regions := (l.foldl
          (fun r n => if modes.getLsbD n.toNat then r.modRegion n Region.makeExempt else r) r).regions } := by
    induction l generalizing r with
    | nil => rfl
    | cons n l ih =>
      rw [List.foldl_cons, ih]
      split_ifs <;> rfl
  exact keeps regionNos r

theorem exemptRegions_sound (modes : Byte) {r : Rs} (h : ∀ n, (r.regionAt n).Sound) (n : RegionNo) :
    ((r.exemptRegions modes).regionAt n).Sound := by
  rw [regionAt_exemptRegions]
  split_ifs
  · exact makeExempt_sound _
  · exact h n

theorem setupRequest_sound {d : Dev} (modes start stop : Byte) (h : d.rs.Sound) :
    (d.setupRequest modes start stop).rs.Sound := by
  unfold Dev.setupRequest
  split_ifs with hlock hok
  · exact h
  · obtain ⟨-, hlow, hhigh, hend⟩ := (setupOk_iff modes start stop).mp hok
    exact evalUrgency_sound _ (exemptRegions_sound modes h.1) hlow hhigh hend
  · exact h

theorem rateRequest_sound {d : Dev} (g : Byte) (h : d.rs.Sound) : (d.rateRequest g).rs.Sound := by
  unfold Dev.rateRequest
  split <;> exact h

theorem stopTimer_timer (now : Time) (x : Region) : x.stopTimer now = { x with timer := (x.stopTimer now).timer } := by
  unfold Region.stopTimer
  split <;> rfl

theorem restart_timer (now : Time) (x : Region) : x.restart now = { x with timer := (x.restart now).timer } := by
  unfold Region.restart
  split_ifs
  · rfl
  · split <;> rfl

theorem startTimer_timer (ends : Time) (x : Region) :
    x.startTimer ends = { x with timer := (x.startTimer ends).timer } := by
  unfold Region.startTimer
  split_ifs <;> rfl

theorem holdRequest_sound {d : Dev} (h : d.rs.Sound) : d.holdRequest.rs.Sound := by
  unfold Dev.holdRequest
  split_ifs
  · exact h
  · exact sound_of_core (callBack_core _) (sound_of_timers h (stopTimer_sound d.now) (stopTimer_timer d.now) true)

theorem resumeRequest_sound {d : Dev} (h : d.rs.Sound) : d.resumeRequest.rs.Sound := by
  unfold Dev.resumeRequest
  split_ifs
  · have raised : (Dev.evalUrgency
        { d with rs := { d.rs with hold := false, regions := d.rs.regions.map Region.raise } }).rs.Sound :=
      evalUrgency_sound_of h (map_sound raise_sound h.1) ⟨rfl, rfl⟩
    exact sound_of_timers raised (restart_sound _) (restart_timer _) _
  · exact h

theorem takeRequest_sound {d : Dev} (q : Request) (h : d.rs.Sound) : (d.takeRequest q).rs.Sound := by
  cases q with
  | setup modes start stop => exact setupRequest_sound modes start stop h
  | submit t c r n => exact (submitRequest_rs d t c r n).symm ▸ h
  | cancel t => exact sound_of_core (cancelRequest_core d t) h
  | done x o => exact (doneRequest_rs d x o).symm ▸ h
  | rate g => exact rateRequest_sound g h
  | hold => exact holdRequest_sound h
  | resume => exact resumeRequest_sound h
  | query t p => exact (queryRequest_rs d t p).symm ▸ h
  | leave => exact sound_of_core (leaveRequest_core d) h
  | rejoin => exact (rejoinRequest_rs d).symm ▸ h

/-! ### The resets (R106, R127) -/

theorem held_greatestDebt (k : ResetKind) : (Dev.held k).rs.greatestDebt = resetDebt k := by
  cases k <;> rfl

/-- Either reset leaves the retention scheduler in order: a power-on reset with no debt and NORMAL, a line reset with
debt 5, the start level, and URGENT (R127). -/
theorem held_sound (k : ResetKind) : (Dev.held k).rs.Sound := by
  have region (n : RegionNo) : ((Dev.held k).rs.regionAt n).Sound := by
    rw [regionAt_held]
    cases k
    · exact sound_of_active rfl (by decide) (by decide)
    · exact sound_of_active rfl (by decide) (by decide)
  refine ⟨region, (by decide : 3 ≤ 5), ?_⟩
  rw [held_greatestDebt]
  cases k <;> decide

/-- The release of reset starts timers alone (R106). -/
theorem release_sound {d : Dev} (sid : BitVec 4) (pins : ReleasePins) (h : d.rs.Sound) :
    (d.release sid pins).rs.Sound := by
  have region (n : RegionNo) : (d.release sid pins).rs.regionAt n =
      (d.rs.regionAt n).startTimer (d.now + staggered n.toNat) := regionAt_startTimers d.now d.rs n
  refine sound_of_debts h (fun n => ?_) (fun n => ?_) (fun n => ?_) ⟨rfl, rfl⟩ rfl
  · rw [region]
    exact startTimer_sound _ _ (h.1 n)
  · rw [region, startTimer_timer]
  · rw [region, startTimer_timer]

/-! ### Every effect of a command -/

/-- What keeps the regions, the levels and the urgency state in order: the passing of time, the close of a step and
every effect. -/
theorem keeps_retention : Keeps (fun d => d.rs.Sound) where
  held := held_sound
  elapseTo _ _ h := h
  close b d h := sound_of_core (close_core d b) h
  release sid pins _ := release_sound sid pins
  ignored _ h := h
  busFree d h := sound_of_core (busFree_core d) h
  arbitrationLost d h := sound_of_core (arbitrationLost_core d) h
  bitError d h := sound_of_core (bitError_core d) h
  sendComplete acks _ := sendComplete_sound acks
  receive hd b d h := sound_of_core (receive_core d hd b) h
  discardFrame _ h := h
  ownNumber d h := sound_of_core (ownNumber_core d) h
  listenEnd _ h := h
  enterMember d h := sound_of_core (enterMember_core d) h
  beaconDue _ _ h := h
  fallSilent x d h := sound_of_core (fallSilent_core d x) h
  expirePeer _ _ _ h := h
  ageing _ _ h := h
  leaseExpire x t d h := (leaseExpire_rs d x t).symm ▸ h
  accrue _ _ _ := accrue_sound
  headExpire d h := (headExpire_rs d).symm ▸ h
  prompt _ h := h
  deadlinePass t d h := sound_of_core (deadlinePass_core d t) h
  placeLeave _ h := h
  recover d h := sound_of_core (recover_core d) h
  quietSdo _ h := h
  request q _ := takeRequest_sound q
  discardPut _ h := h
  malformed _ h := h
  take n d h := (take_rs d n).symm ▸ h
  peek _ _ h := h
  endTake _ h := h

/-- Settles O8: the resets leave the retention scheduler in order, and every effect of a command keeps it so. -/
theorem retentionInvariantKept : Obligations.RetentionInvariantKept :=
  fun _ _ h hstep => keeps_retention.step h hstep

end Sys2Proof.RetentionDuty
end

section
/-! PROOFS. ACCRUAL_TIMER_EXPIRY, RATE and SETUP: how debts rise and lapse, and what the controller sets (R106, R108,
R109, R112, R123 to R125). -/

namespace Sys2Proof.RetentionDuty

open Sys2Proof.Machine Sys2Proof.Laws Sys2Proof.JoinResync Sys2Proof.ClaimLifeCycle

/-! ### The accrual timer (R106, R108, R109) -/

theorem interval_eq (g : Grade) : g.interval = match g with | .one => us 8000 | .two => us 4000 := by
  cases g <;> rfl

theorem accrualAt_running {d : Dev} {r : RegionNo} {t : Time} (ht : (d.rs.regionAt r).timer = .running t) :
    d.accrualAt r = some t := by
  rw [Dev.accrualAt, ht]

theorem exec_accrualTimerExpiry {s : State} {r : RegionNo} {t : Time} (hu : s.dev.Up)
    (ht : (s.dev.rs.regionAt r).timer = .running t) :
    exec (.accrualTimerExpiry r) s = .next (s.afterEnd t ((s.dev.elapseTo t).accrue r t)) := by
  have hend := accrualAt_running ht
  refine (answer_actAt s (Dev.accrue r ((s.dev.accrualAt r).getD 0)) hu hend).trans ?_
  rw [hend]
  rfl

/-- The urgency evaluation leaves the timers alone. -/
theorem evalUrgency_timer (d : Dev) (n : RegionNo) :
    (d.evalUrgency.rs.regionAt n).timer = (d.rs.regionAt n).timer := by
  have timer (r : Rs) : (r.core.regionAt n).timer = (r.regionAt n).timer := by rw [regionAt_core]
  rw [← timer, evalUrgency_core]
  exact timer d.rs

/-- An accrual restarts the region's timer from its end, at the interval of the grade in force. -/
theorem accrue_timer (d : Dev) (r : RegionNo) (t : Time) :
    ((d.accrue r t).rs.regionAt r).timer = .running (t + d.rs.grade.interval) := by
  by_cases h : (d.rs.regionAt r).debt < 8
  · rw [accrue_raises t h, evalUrgency_timer, modRegion_rs, regionAt_modRegion]
  · rw [accrue_lapses t (not_lt.mp h), evalUrgency_timer, notify_rs, modRegion_rs, regionAt_modRegion]

/-- Settles O46, by whether the region's debt is below +8. -/
theorem accrualRaisesDebtOrCountsALapse : Obligations.AccrualRaisesDebtOrCountsALapse := by
  intro s r t hu ht d again
  have restarts : again = .running (t + d.rs.grade.interval) :=
    congrArg (fun i => AccrualTimer.running (t + i)) (interval_eq d.rs.grade).symm
  rw [exec_accrualTimerExpiry hu ht, restarts]
  refine ⟨fun h => ?_, fun h => ?_⟩
  · rw [accrue_raises (d := d) t h]
  · rw [accrue_lapses (d := d) t h]
    rfl

/-! ### RATE and SETUP (R112, R123 to R125) -/

/-- A request that is taken acts on the part as it finds it, and its step is closed (logs 11, 39). -/
theorem exec_rate {s : State} {dt : Time} (h : s.dev.TakesTransfers) (g : Byte) :
    exec (.rate dt g) s = .next (s.afterPort dt ((s.dev.asked dt).rateRequest g)) :=
  answer_port s dt (fun d => Dev.rateRequest g d.quietSdo) h

theorem exec_setup {s : State} {dt : Time} (h : s.dev.TakesTransfers) (modes start stop : Byte) :
    exec (.setup dt modes start stop) s =
      .next (s.afterPort dt ((s.dev.asked dt).setupRequest modes start stop)) :=
  answer_port s dt (fun d => Dev.setupRequest modes start stop d.quietSdo) h

theorem rateRequest_refused (d : Dev) {g : Byte} (h1 : g ≠ 1) (h2 : g ≠ 2) :
    d.rateRequest g = d.notify (.refuse .rate none .badField) := by
  have none : Grade.ofCode g = none := by
    unfold Grade.ofCode
    split
    · next h => exact absurd (BitVec.eq_of_toNat_eq h) h1
    · next h => exact absurd (BitVec.eq_of_toNat_eq h) h2
    · rfl
  rw [Dev.rateRequest, none]
  rfl

theorem setupRequest_locked {d : Dev} (modes start stop : Byte) (h : d.pu.setupLock = true) :
    d.setupRequest modes start stop = d.notify (.refuse .setup none .locked) := by
  rw [Dev.setupRequest, if_pos h]
  rfl

theorem setupRequest_refused {d : Dev} {modes start stop : Byte} (h : d.pu.setupLock = false)
    (hok : setupOk modes start stop = false) :
    d.setupRequest modes start stop = d.notify (.refuse .setup none .badField) := by
  simp only [Dev.setupRequest, h, hok, Bool.false_eq_true, if_false]
  rfl

theorem setupRequest_taken {d : Dev} {modes start stop : Byte} (h : d.pu.setupLock = false)
    (hok : setupOk modes start stop = true) :
    d.setupRequest modes start stop = Dev.evalUrgency { d with
      rs := { d.rs.exemptRegions modes with startLevel := start.toNat, endLevel := stop.toNat },
      pu.setupLock := true } := by
  simp only [Dev.setupRequest, h, hok, Bool.false_eq_true, if_false, if_true]

/-- Settles O6: RATE by its value, SETUP by the lock and then by its fields. -/
theorem rateAndSetupAreTakenOrRefused : Obligations.RateAndSetupAreTakenOrRefused := by
  refine ⟨⟨fun s dt h => ⟨exec_rate h 1, exec_rate h 2, fun g h1 h2 => ?unknown⟩, fun s r t hu ht => ?restarts,
    fun k => rfl⟩, fun s dt modes start stop h => ?setup⟩
  case unknown => rw [exec_rate h, rateRequest_refused _ h1 h2]
  case restarts =>
    refine ⟨_, exec_accrualTimerExpiry hu ht, ?_⟩
    rw [close_timer, accrue_timer]
    exact congrArg (fun i => AccrualTimer.running (t + i)) (interval_eq s.dev.rs.grade)
  case setup =>
    intro d ok
    rw [exec_setup h]
    refine ⟨fun hl => ?locked, fun hl hok => ?outOfRange, fun hl hok => ?taken⟩
    case locked => rw [setupRequest_locked modes start stop hl]
    case outOfRange =>
      have bad : setupOk modes start stop = false :=
        Bool.eq_false_iff.mpr (mt (setupOk_iff modes start stop).mp hok)
      rw [setupRequest_refused hl bad]
    case taken =>
      have good : setupOk modes start stop = true := (setupOk_iff modes start stop).mpr hok
      refine ⟨{ d.rs.exemptRegions modes with startLevel := start.toNat, endLevel := stop.toNat },
        regionAt_exemptRegions modes d.rs, ?_, ?_⟩
      · rw [exemptRegions_eq]
      · rw [setupRequest_taken hl good]

end Sys2Proof.RetentionDuty
end

section
/-! PROOFS. HOLD and RESUME: accrual stops and starts again, and the claim in the CLAIM slot is called back (R44, R119,
R120, R122, R161, log 12). -/

namespace Sys2Proof.RetentionDuty

open Sys2Proof.Machine Sys2Proof.Laws Sys2Proof.JoinResync

/-! ### What HOLD and RESUME make of a region (R119, R122) -/

theorem stopTimer_eq (now : Time) (x : Region) : x.stopTimer now =
    { x with timer := match x.timer with
        | .running t => .stopped (t - now)
        | .stopped left => .stopped left } := by
  obtain ⟨exempt, debt, pointer, lapses, timer, marked⟩ := x
  cases timer <;> rfl

theorem raise_eq (x : Region) : x.raise = { x with debt := if x.exempt then x.debt else max x.debt 1 } := by
  unfold Region.raise
  split_ifs <;> rfl

theorem restart_eq (now : Time) (x : Region) : x.restart now =
    if x.exempt then x
    else { x with timer := match x.timer with
        | .stopped left => .running (now + left)
        | .running t => .running t } := by
  obtain ⟨exempt, debt, pointer, lapses, timer, marked⟩ := x
  cases timer <;> rfl

/-! ### The claim called back (R44, R120, R161) -/

theorem callBack_empty {d : Dev} (h : d.biu.outbox.claim = none) : d.callBack = d := by
  rw [Dev.callBack, h]

theorem callBack_staged {d : Dev} {c : Claim} (h : d.biu.stagedClaim = some c) : d.callBack = d.unstage c := by
  unfold Biu.stagedClaim at h
  split_ifs at h with hi
  rw [Dev.callBack, h]
  exact if_neg hi

theorem callBack_inHand {d : Dev} {c : Claim} (h : d.biu.outbox.claim = some c) (hi : d.biu.inHandIs .claim = true) :
    d.callBack = { d with biu.outbox.claim := some { c with unstageDue := true } } := by
  rw [Dev.callBack, h]
  exact if_pos hi

/-! ### The urgency evaluation takes no time -/

theorem callBack_now (d : Dev) : d.callBack.now = d.now := by
  unfold Dev.callBack
  split
  · rfl
  · next c _ =>
    split_ifs
    · rfl
    · rw [unstage_eq]; rfl

theorem placePleaFor_now (u : Urgency) (d : Dev) : (d.placePleaFor u).now = d.now := by
  unfold Dev.placePleaFor
  split
  · rfl
  all_goals cases u <;> rfl

theorem evalUrgency_now (d : Dev) : d.evalUrgency.now = d.now := by
  have unstaged (e : Dev) : e.urgentUnstage.now = e.now := by
    unfold Dev.urgentUnstage
    split
    · rfl
    · split_ifs
      · rfl
      · exact callBack_now e
  unfold Dev.evalUrgency
  dsimp only
  split_ifs
  · rfl
  · rw [unstaged, prompt_now, placePleaFor_now]
  · rw [prompt_now, placePleaFor_now]

/-! ### The requests -/

theorem exec_hold {s : State} {dt : Time} (h : s.dev.TakesTransfers) :
    exec (.hold dt) s = .next (s.afterPort dt (s.dev.asked dt).holdRequest) :=
  answer_port s dt (fun d => Dev.holdRequest d.quietSdo) h

theorem exec_resume {s : State} {dt : Time} (h : s.dev.TakesTransfers) :
    exec (.resume dt) s = .next (s.afterPort dt (s.dev.asked dt).resumeRequest) :=
  answer_port s dt (fun d => Dev.resumeRequest d.quietSdo) h

/-- The debts raised and the hold flag cleared, as RESUME has the urgency evaluated (R122). -/
def raised (d : Dev) : Dev := { d with rs := { d.rs with hold := false, regions := d.rs.regions.map Region.raise } }

/-- The part as RESUME leaves it but for the selection that is due: the urgency evaluated once, and then the timers
restarted (R122). -/
def resumed (d : Dev) : Dev :=
  { (raised d).evalUrgency with rs := { (raised d).evalUrgency.rs with
      regions := (raised d).evalUrgency.rs.regions.map (Region.restart (raised d).evalUrgency.now) } }

theorem resumeRequest_held {d : Dev} (h : d.rs.hold = true) : d.resumeRequest = (resumed d).prompt := by
  unfold Dev.resumeRequest
  rw [if_pos h]
  rfl

theorem regionAt_raised (d : Dev) (n : RegionNo) : (raised d).rs.regionAt n = (d.rs.regionAt n).raise :=
  regionAt_map d.rs Region.raise n

theorem regionAt_resumed (d : Dev) (n : RegionNo) :
    (resumed d).rs.regionAt n = ((raised d).evalUrgency.rs.regionAt n).restart d.now := by
  refine (regionAt_map (raised d).evalUrgency.rs (Region.restart _) n).trans ?_
  rw [evalUrgency_now]
  rfl

/-- Settles O54: HOLD and RESUME by the hold flag, the claim by where it stands. -/
theorem holdAndResumeStopAndRestartAccrual : Obligations.HoldAndResumeStopAndRestartAccrual := by
  refine ⟨fun s dt h => ?hold, fun s dt h => ?resume⟩
  case hold =>
    intro d
    rw [exec_hold h]
    refine ⟨fun hh => ?heldAlready, fun hh => ?holds, fun e => callBack_empty, fun e c => callBack_staged,
      fun e c => callBack_inHand⟩
    case heldAlready =>
      rw [Dev.holdRequest, if_pos hh]
      rfl
    case holds =>
      refine ⟨{ d.rs.stopTimers d.now with hold := true }, fun n => ?_, rfl, ?_⟩
      · exact (regionAt_map d.rs (Region.stopTimer d.now) n).trans (stopTimer_eq _ _)
      · rw [Dev.holdRequest, if_neg (Bool.eq_false_iff.mp hh)]
  case resume =>
    intro d
    rw [exec_resume h]
    refine ⟨fun hh => ?notHeld, fun hh => ?resumes⟩
    case notHeld =>
      rw [Dev.resumeRequest, if_neg (Bool.eq_false_iff.mp hh)]
      rfl
    case resumes =>
      refine ⟨(raised d).rs, resumed d, fun n => ?_, rfl, fun n => ?_, rfl, ?_⟩
      · rw [regionAt_raised, raise_eq]
      · exact (regionAt_resumed d n).trans (restart_eq _ _)
      · rw [resumeRequest_held hh]

end Sys2Proof.RetentionDuty
end

section
/-! PROOFS. QUERY: which topics and parts are answered, and the bytes of each reply (R126, R168, R181 to R183, R189, logs
20, 29). -/

namespace Sys2Proof.RetentionDuty

open Sys2Proof.Machine Sys2Proof.Laws Sys2Proof.ClaimLifeCycle

/-! ### Flags -/

theorem bitAt_zero (b : Bool) : bitAt 0 b = if b then 1 else 0 := by
  cases b <;> rfl

/-- Bit `i` of a flags byte is the flag at place `i`, and 0 beyond the flags. -/
theorem flagBits_getLsbD (l : List Bool) (i : Nat) (hi : i < 8) : (flagBits l).getLsbD i = l.getD i false := by
  have low (b : Bool) (j : Nat) : (bitAt 0 b).getLsbD j = (decide (j = 0) && b) := by
    cases b <;> simp [bitAt, BitVec.getLsbD_one]
  induction l generalizing i with
  | nil => simp [flagBits]
  | cons b bs ih =>
    rw [flagBits, BitVec.getLsbD_or, BitVec.getLsbD_shiftLeft, low]
    cases i with
    | zero => simp
    | succ j =>
      have hj := ih j (by omega)
      simp [hi, hj]

/-- The flags byte of a local entry: the bypass count in bits 6 to 4, the flags in bits 3 to 0 (R189). -/
def entryFlags (bypass : Nat) (intent overdue cancel timed : Bool) : Byte :=
  (nat8 bypass <<< 4) ||| flagBits [intent, overdue, cancel, timed]

theorem entryFlags_bypass {n : Nat} (h : n ≤ 4) (a b c e : Bool) :
    ((entryFlags n a b c e).extractLsb' 4 3).toNat = n ∧ (entryFlags n a b c e).getLsbD 7 = false := by
  have bounded : ∀ (n : Fin 5) (a b c e : Bool),
      ((entryFlags n a b c e).extractLsb' 4 3).toNat = n ∧ (entryFlags n a b c e).getLsbD 7 = false := by decide
  exact bounded ⟨n, by omega⟩ a b c e

theorem entryFlags_flag (n : Nat) (a b c e : Bool) (i : Nat) (hi : i < 4) :
    (entryFlags n a b c e).getLsbD i = [a, b, c, e].getD i false := by
  rw [entryFlags, BitVec.getLsbD_or, flagBits_getLsbD _ i (by omega), BitVec.getLsbD_shiftLeft]
  simp [hi]

/-! ### Which QUERYs are answered (R181) -/

theorem part_zero_iff (part : Byte) : part.toNat < 1 ↔ part = 0 := by bv_omega

theorem topicParts_other {topic : Nat} (h : 5 < topic) : topicParts topic = 0 := by
  unfold topicParts
  split
  all_goals first | rfl | omega

/-- A QUERY is answered where the topic has the part, and refused elsewhere. -/
theorem queryRequest_eq (d : Dev) (topic part : Byte) {p : Prop} [Decidable p]
    (hp : part.toNat < topicParts topic.toNat ↔ p) : d.queryRequest topic part =
      if p then (d.built topic.toNat).notify (.reply topic part (d.replyContent topic.toNat part.toNat))
      else d.notify (.refuse .query none .badField) :=
  if_congr hp rfl rfl

theorem answer_query {s : State} {dt : Time} (h : s.dev.TakesTransfers) (topic part : Byte) {p : Prop} [Decidable p]
    (hp : part.toNat < topicParts topic.toNat ↔ p) :
    s.answer (Dev.actPort (fun d => Dev.queryRequest topic part d.quietSdo) (s.dev.elapse dt)) =
      if p then .next (s.afterPort dt (((s.dev.asked dt).built topic.toNat).notify
        (.reply topic part ((s.dev.asked dt).replyContent topic.toNat part.toNat))))
      else .next (s.afterPort dt ((s.dev.asked dt).notify (.refuse .query none .badField))) := by
  refine (answer_port s dt (fun d => Dev.queryRequest topic part d.quietSdo) h).trans ?_
  have asked := queryRequest_eq (s.dev.asked dt) topic part hp
  dsimp only [Dev.asked] at asked ⊢
  rw [asked]
  split_ifs <;> rfl

/-- The bytes of a QUERY, whatever follows them, spell it (R171, R187). -/
theorem ofPut_query (topic part : Byte) (extra : List Byte) :
    Request.ofPut (3 :: 8 :: topic :: part :: extra) = some (.query topic part) := by
  have enough : (3 : Byte).toNat ≤ (8 :: topic :: part :: extra).length := by simp
  rw [Request.ofPut, if_pos enough]
  rfl

theorem exec_otherTopic {s : State} {dt : Time} (h : s.dev.TakesTransfers) {topic : Byte} (part : Byte)
    (extra : List Byte) (ht : 5 < topic.toNat) : exec (.putMalformed dt (3 :: 8 :: topic :: part :: extra)) s =
      .next (s.afterPort dt ((s.dev.asked dt).notify (.refuse .query none .badField))) := by
  refine (answer_port s dt (Dev.put _) h).trans ?_
  rw [Dev.put, ofPut_query]
  have refused := queryRequest_eq (s.dev.asked dt) topic part (p := False) (by simp [topicParts_other ht])
  rw [if_neg id] at refused
  exact congrArg (fun d => Host.Outcome.next (s.afterPort dt d)) refused

/-! ### REGIONS and QUEUE (R126, R168) -/

section Replies

variable (d : Dev)

theorem regionsReply_eq : d.regionsReply =
    d.regionBytes 0 ++ d.regionBytes 1 ++ d.regionBytes 2 ++ d.regionBytes 3 ++
      [match d.rs.grade with | .one => 1 | .two => 2,
        flagBits [d.rs.hold, d.rs.urgency == .urgent, d.pu.setupLock], nat8 d.rs.startLevel, nat8 d.rs.endLevel] := by
  have four : regionNos.flatMap d.regionBytes =
      d.regionBytes 0 ++ d.regionBytes 1 ++ d.regionBytes 2 ++ d.regionBytes 3 := by
    simp [regionNos]
  rw [Dev.regionsReply, four]
  rfl

theorem regionBytes_eq (n : RegionNo) : d.regionBytes n =
    [flagBits [(d.rs.regionAt n).exempt, (d.rs.regionAt n).timer.runs, (d.rs.regionAt n).stagedRfb,
        (d.ownRfb? n).isSome],
      BitVec.ofInt 8 (d.rs.regionAt n).debt, (d.rs.regionAt n).pointer.setWidth 8,
      hi8 (BitVec.ofNat 16 (d.rs.regionAt n).lapses), lo8 (BitVec.ofNat 16 (d.rs.regionAt n).lapses),
      nat8 (d.regionLeft (d.rs.regionAt n)), ((d.ownRfb? n).map Holding.handle).getD 0] := rfl

/-- The region byte of the QUEUE reply: that of a staged refresh demand, else FFh. -/
def demandByte : Byte := (d.stagedDemand.map (BitVec.setWidth 8)).getD 0xFF

theorem demandByte_refresh {c : Claim} (hc : d.biu.openClaim = some c) (hcls : c.cls = .rfb) :
    demandByte d = c.target.region.setWidth 8 := by
  simp [demandByte, Dev.stagedDemand, hc, hcls]

theorem demandByte_none (h : ∀ c, d.biu.openClaim = some c → c.cls ≠ .rfb) : demandByte d = 0xFF := by
  unfold demandByte Dev.stagedDemand
  split
  · next c hc => rw [if_neg (h c hc)]; rfl
  · rfl

theorem entryBytes_eq (e : Entry) : d.entryBytes e =
    [e.tag, e.cls.code, (e.region.map (BitVec.setWidth 8)).getD 0xFF, d.entryState e,
      entryFlags e.bypass e.intent e.overdue (d.entryCancel e) e.deadline.isSome,
      hi8 (BitVec.ofNat 16 (d.left e.deadline)), lo8 (BitVec.ofNat 16 (d.left e.deadline))] := rfl

theorem entryState_eq (e : Entry) :
    d.entryState e = if e.staged = false then 0 else if d.biu.claimSending then 2 else 1 := by
  unfold Dev.entryState Dev.entrySending
  cases e.staged <;> cases d.biu.claimSending <;> rfl

theorem entryCancel_iff (e : Entry) :
    d.entryCancel e = true ↔ ∃ c, d.biu.openClaim = some c ∧ c.tag = some e.tag ∧ c.cancel = true := by
  unfold Dev.entryCancel
  split
  · next c hc => simp [hc]
  · next hc => simp [hc]

/-! ### STATION (R182) -/

theorem forcedBytes_eq (f : Option (Byte × Option Byte)) : forcedBytes f =
    match f with
    | some f => [f.1, if f.2.isSome then 1 else 0, f.2.getD 0]
    | none => [0, 0, 0] := by
  cases f with
  | none => rfl
  | some f => exact congrArg (fun b => [f.1, b, f.2.getD 0]) (bitAt_zero f.2.isSome)

theorem stationReply_eq : d.stationReply =
    [d.pc.station.setWidth 8, d.pc.budget.setWidth 8, nat8 d.units, d.pc.presence.code,
      flagBits [d.pc.syncCause.isSome, d.pc.cfgCause.isSome, d.pc.readyGiven, d.quarantined,
        inMask d.ht.pleas d.pc.station, (d.ht.calEntry? d.pc.station).isSome, d.ht.headTimer.isSome,
        d.pc.phaseEnds.isSome],
      match d.pc.syncCause with | some .resync => 1 | some .join => 0 | none => 0,
      (d.pc.cfgCause.map CfgCause.code).getD 0, nat8 d.ht.forced.length] ++
    forcedBytes d.ht.forced[0]? ++ forcedBytes d.ht.forced[1]? ++
    [d.ht.handleCtr, match d.rs.pleaMark with | .none => 0 | .plea => 1 | .clear => 2,
      hi8 ((d.ht.calEntry? d.pc.station).getD 0), lo8 ((d.ht.calEntry? d.pc.station).getD 0), nat8 d.ownPosition,
      nat8 (d.left d.ht.headTimer), nat8 (d.left d.pc.phaseEnds)] := by
  unfold Dev.stationReply
  simp only [List.append_assoc]
  rcases d.pc.syncCause with _ | _ | _ <;> rfl

theorem ownPosition_at {pre post : List (Station × Word16)} {e : Station × Word16}
    (hq : d.ht.calQueue = pre ++ e :: post) (he : e.1 = d.pc.station) (hpre : ∀ x ∈ pre, x.1 ≠ d.pc.station) :
    d.ownPosition = pre.length + 1 := by
  have found : d.ht.calQueue.findIdx? (fun x => x.1 == d.pc.station) = some pre.length := by
    rw [hq, List.findIdx?_append, List.findIdx?_eq_none_iff.mpr (by simpa using hpre)]
    simp [List.findIdx?_cons, he]
  rw [Dev.ownPosition, found]

theorem ownPosition_absent (h : ∀ x ∈ d.ht.calQueue, x.1 ≠ d.pc.station) : d.ownPosition = 0 := by
  have absent : d.ht.calQueue.findIdx? (fun x => x.1 == d.pc.station) = none :=
    List.findIdx?_eq_none_iff.mpr (by simpa using h)
  rw [Dev.ownPosition, absent]

/-! ### TABLE (R183) -/

theorem recordBytes_eq (h : Holding) : d.recordBytes h =
    [h.station.setWidth 8, h.handle, h.cls.code, nat8 h.cls.units, h.target.byte, h.extensions,
      if h.isOwn then 1 else 0] ++ nat16 (d.left h.expiry) := by
  rw [← bitAt_zero]
  rfl

theorem ownBytes_eq {h : Holding} {p : OwnPart} (hp : h.holder = .own p) : d.ownBytes h =
    [h.handle, h.cls.code, nat8 h.cls.units, h.target.byte,
      flagBits [p.tag.isSome, p.leaseEnds.isSome, p.goSent, p.done.isSome], p.tag.getD 0,
      match p.state with | .running => 0 | .overrun => 1 | .releasing => 2 | .cancelling => 3 | .forcing => 4,
      if p.leaseEnds.isSome then nat8 p.period else 0, nat8 (d.left p.leaseEnds), h.extensions,
      match p.done with | some .fail => 1 | some .aborted => 2 | some .ok => 0 | none => 0] := by
  rw [Dev.ownBytes, part_own hp]
  rcases p with ⟨goSent, leaseEnds, period, _ | _ | _ | _, tag⟩ <;> rfl

theorem claimBytes_none (h : d.biu.openClaim = none) : d.claimBytes = [0, 0, 0, 0, 0] := by
  rw [Dev.claimBytes, h]

theorem claimBytes_some {c : Claim} (h : d.biu.openClaim = some c) : d.claimBytes =
    [flagBits [true, c.tag.isSome, d.biu.claimSending, c.urgent, c.cancel], c.handle, c.cls.code, c.target.byte,
      c.tag.getD 0] := by
  rw [Dev.claimBytes, h]
  rfl

theorem tableSummary_eq : d.tableReply 0 =
    [nat8 d.units] ++ nat16 (heldUnits d.ht.holdings) ++ be16 (BitVec.ofInt 16 d.free) ++ [nat8 d.ht.surge.length] ++
      be16 d.ht.pleas ++ be16 d.ht.nextTicket ++ [nat8 d.ht.calQueue.length] ++
      d.ht.calQueue.flatMap (fun e => [e.1.setWidth 8, hi8 e.2, lo8 e.2]) := rfl

theorem tableRecords_eq (p : Nat) : d.tableReply (p + 2) = [nat8 d.ht.holdings.length] ++
    ((d.ht.holdings.drop (6 * p)).take 6).flatMap (fun h =>
      [h.station.setWidth 8, h.handle, h.cls.code, nat8 h.cls.units, h.target.byte, h.extensions,
        if h.isOwn then 1 else 0] ++ nat16 (d.left h.expiry)) :=
  congrArg (fun f => nat8 d.ht.holdings.length :: ((d.ht.holdings.drop (6 * p)).take 6).flatMap f)
    (funext (recordBytes_eq d))

/-! ### ROSTER (R81, R183) -/

/-- Each part of the ROSTER reply shows four stations in ascending order. -/
theorem rosterReply_eq {a b c e : Station} {p : Nat}
    (h : (p, a, b, c, e) = (0, 0, 1, 2, 3) ∨ (p, a, b, c, e) = (1, 4, 5, 6, 7) ∨ (p, a, b, c, e) = (2, 8, 9, 10, 11) ∨
      (p, a, b, c, e) = (3, 12, 13, 14, 15)) :
    d.rosterReply p = d.rosterBytes a ++ d.rosterBytes b ++ d.rosterBytes c ++ d.rosterBytes e := by
  have four : (stations.drop (4 * p)).take 4 = [a, b, c, e] := by
    rcases h with h | h | h | h <;> cases h <;> rfl
  rw [Dev.rosterReply, four]
  simp

variable (x : Station)

theorem shownState_code : (d.pc.shownState x).code =
    if x == d.pc.station then (if d.pc.presence = .member then 1 else 0)
    else match (d.pc.rosterAt x).state with | .absent => 0 | .member => 1 | .silent => 2 := by
  unfold Pc.shownState
  by_cases hx : x = d.pc.station
  · rw [if_pos hx, if_pos (beq_iff_eq.mpr hx)]
    split_ifs <;> rfl
  · rw [if_neg hx, if_neg (mt beq_iff_eq.mp hx)]
    rfl

theorem shownHeard_eq :
    d.pc.shownHeard x = if x == d.pc.station then none else (d.pc.rosterAt x).lastHeard := by
  simp [Pc.shownHeard]

theorem shownApplied_eq :
    d.pc.shownApplied x = if x == d.pc.station then none else (d.pc.rosterAt x).lastApplied := by
  simp [Pc.shownApplied]

theorem heardAge_eq : d.heardAge x =
    ((d.pc.shownHeard x).map (fun t => min 65535 ((d.now - t + 399) / 400))).getD 0 := by
  unfold Dev.heardAge
  cases d.pc.shownHeard x <;> rfl

theorem rosterBytes_eq : d.rosterBytes x =
    [if x == d.pc.station then (if d.pc.presence = .member then 1 else 0)
      else match (d.pc.rosterAt x).state with | .absent => 0 | .member => 1 | .silent => 2,
      flagBits [(d.pc.shownHeard x).isSome, (d.pc.shownApplied x).isSome]] ++
    nat16 (((d.pc.shownHeard x).map (fun t => min 65535 ((d.now - t + 399) / 400))).getD 0) ++
    [(d.pc.shownApplied x).getD 0, nat8 (d.pc.rosterAt x).mismatch] ++ nat16 (d.pc.rosterAt x).contests ++
    nat16 (d.pc.rosterAt x).softContests ++ nat16 (d.pc.rosterAt x).forcedSeen := by
  rw [← heardAge_eq, ← shownState_code]
  rfl

end Replies

/-- Settles O56: the QUERYs by topic and part, then each reply by its bytes and its flags. -/
theorem queryIsAnsweredWithAReply : Obligations.QueryIsAnsweredWithAReply := by
  refine ⟨fun s dt part h => ?queries, fun d t r => ⟨rfl, rfl, rfl, rfl⟩,
    fun d => ⟨_, regionsReply_eq d, flagBits_getLsbD _⟩, fun d n => ⟨_, regionBytes_eq d n, flagBits_getLsbD _⟩,
    fun d p => ⟨demandByte d, rfl, fun c => demandByte_refresh d, demandByte_none d⟩, fun d e hb => ?entry,
    fun d => ?station, fun d => ⟨tableSummary_eq d, rfl, tableRecords_eq d⟩,
    fun d h p hp => ⟨_, ownBytes_eq d hp, flagBits_getLsbD _⟩,
    fun d => ⟨claimBytes_none d, fun c hc => ⟨_, claimBytes_some d hc, flagBits_getLsbD _⟩⟩,
    fun d a b c e p => rosterReply_eq d, fun d x => ?roster, fun d => rfl⟩
  case queries =>
    intro d reply refusal
    have whole := part_zero_iff part
    exact ⟨answer_query h 0 part whole, answer_query h 1 part whole, answer_query h 2 part Iff.rfl,
      answer_query h 3 part Iff.rfl, answer_query h 4 part Iff.rfl, answer_query h 5 part whole,
      fun topic extra => exec_otherTopic h part extra⟩
  case entry =>
    obtain ⟨hbypass, hunused⟩ := entryFlags_bypass hb e.intent e.overdue (d.entryCancel e) e.deadline.isSome
    have flag := entryFlags_flag e.bypass e.intent e.overdue (d.entryCancel e) e.deadline.isSome
    refine ⟨_, _, entryBytes_eq d e, entryState_eq d e, hbypass, hunused, flag 3 (by decide), flag 1 (by decide),
      flag 0 (by decide), ?_⟩
    rw [flag 2 (by decide)]
    exact entryCancel_iff d e
  case station =>
    refine ⟨flagBits [d.pc.syncCause.isSome, d.pc.cfgCause.isSome, d.pc.readyGiven, d.quarantined,
      inMask d.ht.pleas d.pc.station, (d.ht.calEntry? d.pc.station).isSome, d.ht.headTimer.isSome,
      d.pc.phaseEnds.isSome], ?_⟩
    intro own phase place
    have shown : forcedBytes = place := funext forcedBytes_eq
    rw [← shown]
    exact ⟨stationReply_eq d, flagBits_getLsbD _, fun pre e post => ownPosition_at d, ownPosition_absent d⟩
  case roster =>
    refine ⟨flagBits [(d.pc.shownHeard x).isSome, (d.pc.shownApplied x).isSome], ?_⟩
    intro r own heard applied
    have hheard : d.pc.shownHeard x = heard := shownHeard_eq d x
    have happlied : d.pc.shownApplied x = applied := shownApplied_eq d x
    rw [← hheard, ← happlied]
    exact ⟨rosterBytes_eq d x, flagBits_getLsbD _⟩

end Sys2Proof.RetentionDuty
end

section
/-! PROOFS. The demands of a selection: which region each names, and under which conditions (R115 to R117). -/

namespace Sys2Proof.RetentionDuty

open Sys2Proof.Machine Sys2Proof.Laws

/-! ### The region of greatest debt (R116, R117) -/

section Best

variable (d : Dev) (p : RegionNo → Bool)

/-- A region is no worse than another: it owes more, or as much under a lower number. -/
def NoWorse (r n : RegionNo) : Prop :=
  (d.rs.regionAt n).debt < (d.rs.regionAt r).debt ∨ ((d.rs.regionAt n).debt = (d.rs.regionAt r).debt ∧ r ≤ n)

/-- What has been chosen among these regions: none where none qualifies, else the best that does. -/
def Chosen (seen : List RegionNo) : Option RegionNo → Prop
  | none => ∀ n ∈ seen, p n = false
  | some r => r ∈ seen ∧ p r = true ∧ ∀ n ∈ seen, p n = true → NoWorse d r n

/-- One more region, its number above those seen, is weighed against the choice so far. -/
def weigh (best : Option RegionNo) (r : RegionNo) : Option RegionNo :=
  if p r then
    match best with
    | none => some r
    | some b => if (d.rs.regionAt b).debt < (d.rs.regionAt r).debt then some r else some b
  else best

theorem bestRegion_eq : d.bestRegion p = regionNos.foldl (weigh d p) none := rfl

variable {d p}

theorem NoWorse.refl (r : RegionNo) : NoWorse d r r := .inr ⟨rfl, BitVec.le_refl r⟩

theorem NoWorse.antisymm {r n : RegionNo} (h : NoWorse d r n) (k : NoWorse d n r) : r = n := by
  obtain h | ⟨hdebt, hle⟩ := h
  · obtain k | ⟨k, -⟩ := k <;> omega
  · obtain k | ⟨-, k⟩ := k
    · omega
    · exact BitVec.le_antisymm hle k

/-- One more region keeps the choice the best of those seen. -/
theorem weigh_chosen {seen : List RegionNo} {best : Option RegionNo} {r : RegionNo} (h : Chosen d p seen best)
    (hr : ∀ n ∈ seen, n < r) : Chosen d p (seen ++ [r]) (weigh d p best r) := by
  have last : r ∈ seen ++ [r] := List.mem_append_right seen List.mem_cons_self
  have cases_mem {n : RegionNo} (hn : n ∈ seen ++ [r]) : n ∈ seen ∨ n = r := by simpa using hn
  unfold weigh
  split_ifs with hp
  · cases best with
    | none =>
      refine ⟨last, hp, fun n hn hpn => ?_⟩
      obtain hn | rfl := cases_mem hn
      · rw [h n hn] at hpn; cases hpn
      · exact .refl n
    | some b =>
      obtain ⟨hb, hpb, hbest⟩ := h
      dsimp only
      split_ifs with hlt
      · refine ⟨last, hp, fun n hn hpn => ?_⟩
        obtain hn | rfl := cases_mem hn
        · exact .inl ((hbest n hn hpn).elim (·.trans hlt) (·.1.trans_lt hlt))
        · exact .refl n
      · refine ⟨List.mem_append_left _ hb, hpb, fun n hn hpn => ?_⟩
        obtain hn | rfl := cases_mem hn
        · exact hbest n hn hpn
        · exact (not_lt.mp hlt).lt_or_eq.imp id (⟨·, BitVec.le_of_lt (hr b hb)⟩)
  · cases best with
    | none =>
      intro n hn
      obtain hn | rfl := cases_mem hn
      · exact h n hn
      · exact Bool.eq_false_iff.mpr hp
    | some b =>
      obtain ⟨hb, hpb, hbest⟩ := h
      refine ⟨List.mem_append_left _ hb, hpb, fun n hn hpn => ?_⟩
      obtain hn | rfl := cases_mem hn
      · exact hbest n hn hpn
      · exact absurd hpn hp

theorem foldl_chosen {seen l : List RegionNo} {best : Option RegionNo} (h : Chosen d p seen best)
    (hl : (seen ++ l).Pairwise (· < ·)) : Chosen d p (seen ++ l) (l.foldl (weigh d p) best) := by
  induction l generalizing seen best with
  | nil => simpa using h
  | cons r l ih =>
    have split : seen ++ r :: l = (seen ++ [r]) ++ l := by simp
    rw [List.foldl_cons, split]
    refine ih (weigh_chosen h fun n hn => ?_) (split ▸ hl)
    exact (List.pairwise_append.mp hl).2.2 n hn r List.mem_cons_self

/-- The region chosen is the best of those that qualify. -/
theorem bestRegion_eq_some (r : RegionNo) :
    d.bestRegion p = some r ↔ p r = true ∧ ∀ n, p n = true → NoWorse d r n := by
  have all (n : RegionNo) : n ∈ regionNos := by revert n; decide
  have chosen : Chosen d p regionNos (d.bestRegion p) :=
    foldl_chosen (seen := []) (fun n hn => by cases hn) (by decide)
  cases hb : d.bestRegion p with
  | none =>
    rw [hb] at chosen
    refine ⟨fun h => (by cases h), fun ⟨hr, _⟩ => ?_⟩
    rw [chosen r (all r)] at hr
    cases hr
  | some b =>
    rw [hb] at chosen
    obtain ⟨-, hpb, hbest⟩ := chosen
    refine ⟨fun h => ?_, fun ⟨hr, hrbest⟩ => ?_⟩
    · cases h
      exact ⟨hpb, fun n => hbest n (all n)⟩
    · rw [NoWorse.antisymm (hbest r (all r) hr) (hrbest b hpb)]

end Best

/-! ### Eligibility and the conditions of pull-in (R115, R117) -/

theorem eligible_iff (d : Dev) (r : RegionNo) : d.eligible r = true ↔
    (d.rs.regionAt r).exempt = false ∧ (d.rs.regionAt r).stagedRfb = false ∧
      ∀ h ∈ d.ownHoldings, h.cls = .rfb → h.target.region ≠ r := by
  simp [Dev.eligible, Dev.ownRfb?]
  tauto

theorem otherPlea_iff (m : BitVec 16) (s : Station) :
    otherPlea m s = false ↔ ∀ x, inMask m x = true → x = s := by
  have bit (x : Station) : (m &&& ~~~(maskBit s)).getLsbD x.toNat = (inMask m x && decide (x ≠ s)) := by
    have hx : x.toNat < 16 := x.isLt
    have unequal : decide (x ≠ s) = decide (x.toNat < s.toNat ∨ x.toNat - s.toNat ≠ 0) := by
      rw [decide_eq_decide, ne_eq, ← BitVec.toNat_inj]; omega
    rw [BitVec.getLsbD_and, BitVec.getLsbD_not, maskBit, BitVec.getLsbD_shiftLeft, BitVec.getLsbD_one, ← inMask,
      unequal]
    simp [hx]
  unfold otherPlea
  rw [bne_eq_false_iff_eq]
  refine ⟨fun h x hx => ?_, fun h => BitVec.eq_of_getLsbD_eq fun i hi => ?_⟩
  · have hb := bit x
    rw [h, hx] at hb
    simpa using hb
  · have hb := bit (BitVec.ofNat 4 i)
    have hn : (BitVec.ofNat 4 i).toNat = i := by rw [BitVec.toNat_ofNat]; omega
    rw [hn] at hb
    rw [hb]
    simpa using h (BitVec.ofNat 4 i)

theorem pullInOpen_iff (d : Dev) : d.pullInOpen = true ↔ d.rs.urgency = .normal ∧
    (∀ s, inMask d.ht.pleas s = true → s = d.pc.station) ∧ 10 ≤ d.free - 3 ∧ d.ht.surge.length ≤ 8 := by
  simp only [Dev.pullInOpen, Bool.and_eq_true, Bool.not_eq_true', otherPlea_iff, beq_iff_eq, decide_eq_true_eq,
    and_assoc]

theorem normalDemand_eq_some (d : Dev) (r : RegionNo) : d.normalDemand = some r ↔
    d.rs.hold = false ∧ d.eligible r = true ∧ 1 ≤ (d.rs.regionAt r).debt ∧
      ∀ n, d.eligible n = true → 1 ≤ (d.rs.regionAt n).debt → NoWorse d r n := by
  unfold Dev.normalDemand
  cases d.rs.hold with
  | true => simp
  | false => simp [bestRegion_eq_some, and_assoc]

theorem pullInDemand_eq_some (d : Dev) (r : RegionNo) : d.pullInDemand = some r ↔
    d.rs.hold = false ∧ d.pullInOpen = true ∧ d.eligible r = true ∧ -7 ≤ (d.rs.regionAt r).debt ∧
      (d.rs.regionAt r).debt ≤ 0 ∧
      ∀ n, d.eligible n = true → -7 ≤ (d.rs.regionAt n).debt → (d.rs.regionAt n).debt ≤ 0 → NoWorse d r n := by
  unfold Dev.pullInDemand
  cases d.rs.hold with
  | true => simp
  | false =>
    cases d.pullInOpen with
    | false => simp
    | true => simp [bestRegion_eq_some, and_assoc]

end Sys2Proof.RetentionDuty
end

section
/-! PROOFS. The three steps of a selection: what it stages, in which order, and which bypass counts rise (R157 to R160,
log 11). -/

namespace Sys2Proof.RetentionDuty

open Sys2Proof.Machine Sys2Proof.Laws Sys2Proof.ClaimLifeCycle

/-! ### What step 2 finds (R159, R160) -/

section Choice

variable {d : Dev}

theorem lackUnits_cons_units {e : Entry} {l : List Entry} (h : d.testEntry e = some .a4) :
    d.lackUnits (e :: l) = e :: d.lackUnits l :=
  List.filter_cons_of_pos (by simp [h])

theorem lackUnits_cons_other {e : Entry} {l : List Entry} (h : d.testEntry e ≠ some .a4) :
    d.lackUnits (e :: l) = d.lackUnits l :=
  List.filter_cons_of_neg (by simp [h])

/-- The entries in queue order: the first that passes is chosen, those before it that lack units being passed over; where
none passes, all that lack units are. -/
theorem scanEntries_cases (passed : List Byte) (l : List Entry) :
    (∃ pre x post, l = pre ++ x :: post ∧ (∀ y ∈ pre, d.testEntry y ≠ none) ∧ d.testEntry x = none ∧
      scanEntries d.testEntry passed l = .chosen x.tag (passed ++ (d.lackUnits pre).map Entry.tag)) ∨
    ((∀ y ∈ l, d.testEntry y ≠ none) ∧
      scanEntries d.testEntry passed l = .nothing (passed ++ (d.lackUnits l).map Entry.tag)) := by
  induction l generalizing passed with
  | nil => exact .inr ⟨by simp, by simp [scanEntries, Dev.lackUnits]⟩
  | cons e es ih =>
    unfold scanEntries
    split
    · next hpass => exact .inl ⟨[], e, es, rfl, by simp, hpass, by simp [Dev.lackUnits]⟩
    · next hunits =>
      have fails : d.testEntry e ≠ none := by rw [hunits]; simp
      obtain ⟨pre, x, post, rfl, hpre, hx, hscan⟩ | ⟨hall, hscan⟩ := ih (passed ++ [e.tag])
      · refine .inl ⟨e :: pre, x, post, rfl, List.forall_mem_cons.mpr ⟨fails, hpre⟩, hx, ?_⟩
        rw [hscan, lackUnits_cons_units hunits, List.map_cons, List.append_assoc, List.singleton_append]
      · refine .inr ⟨List.forall_mem_cons.mpr ⟨fails, hall⟩, ?_⟩
        rw [hscan, lackUnits_cons_units hunits, List.map_cons, List.append_assoc, List.singleton_append]
    · next c hother hc =>
      have fails : d.testEntry e ≠ none := by rw [hc]; simp
      have other : d.testEntry e ≠ some .a4 := by rw [hc]; simpa using hother
      obtain ⟨pre, x, post, rfl, hpre, hx, hscan⟩ | ⟨hall, hscan⟩ := ih passed
      · refine .inl ⟨e :: pre, x, post, rfl, List.forall_mem_cons.mpr ⟨fails, hpre⟩, hx, ?_⟩
        rw [hscan, lackUnits_cons_other other]
      · refine .inr ⟨List.forall_mem_cons.mpr ⟨fails, hall⟩, ?_⟩
        rw [hscan, lackUnits_cons_other other]

/-- The entries at 4, oldest first: one that passes is chosen, one that lacks units blocks, and where all stand aside the
others are scanned. -/
theorem scanBlockers_cases (rest l : List Entry) :
    (∃ pre x post, l = pre ++ x :: post ∧ d.standAside pre ∧ d.testEntry x = none ∧
      scanBlockers d.testEntry rest l = .chosen x.tag []) ∨
    (∃ pre x post, l = pre ++ x :: post ∧ d.standAside pre ∧ d.testEntry x = some .a4 ∧
      scanBlockers d.testEntry rest l = .block) ∨
    (d.standAside l ∧ scanBlockers d.testEntry rest l = scanEntries d.testEntry [] rest) := by
  have none_before : d.standAside [] := fun e he => by cases he
  induction l with
  | nil => exact .inr (.inr ⟨none_before, rfl⟩)
  | cons e es ih =>
    unfold scanBlockers
    split
    · next hpass => exact .inl ⟨[], e, es, rfl, none_before, hpass, rfl⟩
    · next hunits => exact .inr (.inl ⟨[], e, es, rfl, none_before, hunits, rfl⟩)
    · next c hother hc =>
      have aside : d.testEntry e ≠ none ∧ d.testEntry e ≠ some .a4 := by
        rw [hc]; exact ⟨by simp, by simpa using hother⟩
      obtain ⟨pre, x, post, rfl, hpre, hx⟩ | ⟨pre, x, post, rfl, hpre, hx⟩ | ⟨hall, hscan⟩ := ih
      · exact .inl ⟨e :: pre, x, post, rfl, List.forall_mem_cons.mpr ⟨aside, hpre⟩, hx⟩
      · exact .inr (.inl ⟨e :: pre, x, post, rfl, List.forall_mem_cons.mpr ⟨aside, hpre⟩, hx⟩)
      · exact .inr (.inr ⟨List.forall_mem_cons.mpr ⟨aside, hall⟩, hscan⟩)

theorem localChoice_eq (d : Dev) : d.localChoice = scanBlockers d.testEntry d.queuedBelowFour d.queuedAtFour := by
  have below : (fun e : Entry => decide (e.bypass < 4) && !e.staged) =
      fun e => !e.staged && decide (e.bypass < 4) := funext fun e => Bool.and_comm _ _
  have atFour : (fun e : Entry => !decide (e.bypass < 4) && !e.staged) =
      fun e => !e.staged && decide (4 ≤ e.bypass) := funext fun e => by
    rw [Bool.and_comm, ← decide_not, decide_eq_decide.mpr not_lt]
  unfold Dev.localChoice Dev.queuedBelowFour Dev.queuedAtFour
  dsimp only
  rw [List.filter_filter, List.filter_filter, below, atFour]

end Choice

/-! ### A selection reads nothing that the close changes before it (log 33) -/

theorem scanEntries_unflagged {test : Entry → Option Cond} (ht : ∀ e, test (unflagged e) = test e)
    (passed : List Byte) (l : List Entry) : scanEntries test passed (l.map unflagged) = scanEntries test passed l := by
  induction l generalizing passed with
  | nil => rfl
  | cons e es ih =>
    simp only [List.map_cons, scanEntries, ht, ih]
    rfl

theorem scanBlockers_unflagged {test : Entry → Option Cond} (ht : ∀ e, test (unflagged e) = test e)
    (rest l : List Entry) :
    scanBlockers test (rest.map unflagged) (l.map unflagged) = scanBlockers test rest l := by
  induction l with
  | nil => exact scanEntries_unflagged ht [] rest
  | cons e es ih =>
    simp only [List.map_cons, scanBlockers, ht, ih]
    rfl

section Same

variable {a b : Dev} (hs : a.SameButClose b) (hk : NothingStaged a b)

include hs

theorem same_testEntry : b.testEntry = a.testEntry := funext fun e => same_firstFail hs e.cls (e.region.getD 0)

include hk

theorem same_eligible (n : RegionNo) : b.eligible n = a.eligible n := by
  simp only [Dev.eligible, Dev.ownRfb?, hk.rs, same_ownHoldings hs]

theorem same_normalDemand : b.normalDemand = a.normalDemand :=
  Option.ext fun r => by
    simp only [normalDemand_eq_some, NoWorse, same_eligible hs hk, hk.rs]

theorem same_pullInDemand : b.pullInDemand = a.pullInDemand :=
  Option.ext fun r => by
    simp only [pullInDemand_eq_some, pullInOpen_iff, NoWorse, same_eligible hs hk, hk.rs, same_pleas hs, same_pc hs,
      same_free hs, same_surge hs]

theorem same_localChoice : b.localChoice = a.localChoice := by
  have filtered (p : Entry → Bool) (hp : ∀ e, p (unflagged e) = p e) :
      (b.oqs.queue.filter p).map unflagged = (a.oqs.queue.filter p).map unflagged := by
    have filter_map (l : List Entry) : (l.filter p).map unflagged = (l.map unflagged).filter p := by
      rw [List.filter_map]
      exact congrArg (List.map unflagged) (List.filter_congr fun e _ => (hp e).symm)
    rw [filter_map, filter_map, hk.queue]
  rw [localChoice_eq, localChoice_eq, same_testEntry hs,
    ← scanBlockers_unflagged (fun _ => rfl) b.queuedBelowFour, ← scanBlockers_unflagged (fun _ => rfl) a.queuedBelowFour]
  exact congrArg₂ _ (filtered _ fun _ => rfl) (filtered _ fun _ => rfl)

end Same

/-! ### The steps in their order (R158) -/

/-- Step 1 stages a demand: one stands, and its test passes. -/
def DemandPasses (d : Dev) : Prop := ∃ r, d.normalDemand = some r ∧ d.firstFail .rfb r = none

/-- Steps 2 and 3 are open: the station is not URGENT and no other station pleads. -/
def LocalTested (d : Dev) : Prop := d.rs.urgency = .normal ∧ ∀ s, inMask d.ht.pleas s = true → s = d.pc.station

section Steps

variable {d : Dev}

theorem selectOnce_demand {r : RegionNo} (hr : d.normalDemand = some r) (hp : d.firstFail .rfb r = none) :
    d.selectOnce = d.stageRfb r := by
  rw [Dev.selectOnce, hr]
  exact if_pos (Option.isNone_iff_eq_none.mpr hp)

theorem selectOnce_local (h : ¬ DemandPasses d) : d.selectOnce = d.selectLocal := by
  unfold Dev.selectOnce
  split
  · next r hr => exact if_neg fun hp => h ⟨r, hr, Option.isNone_iff_eq_none.mp hp⟩
  · rfl

theorem selectPullIn_stages {r : RegionNo} (passed : List Byte) (hr : d.pullInDemand = some r)
    (hp : d.firstFail .rfb r = none) : d.selectPullIn passed = (d.bump passed).stageRfb r := by
  rw [Dev.selectPullIn, hr]
  exact if_pos (Option.isNone_iff_eq_none.mpr hp)

theorem selectPullIn_rests (passed : List Byte) (h : ∀ r, d.pullInDemand = some r → d.firstFail .rfb r ≠ none) :
    d.selectPullIn passed = d := by
  unfold Dev.selectPullIn
  split
  · next r hr => exact if_neg fun hp => h r hr (Option.isNone_iff_eq_none.mp hp)
  · rfl

theorem localTested_iff : LocalTested d ↔ ¬ (d.rs.urgency == .urgent || otherPlea d.ht.pleas d.pc.station) = true := by
  rw [Bool.or_eq_true, not_or, Bool.not_eq_true, Bool.not_eq_true, otherPlea_iff, LocalTested]
  cases d.rs.urgency <;> simp

/-- While the station is URGENT or another pleads there is no pull-in either: nothing is staged. -/
theorem selectLocal_untested (h : ¬ LocalTested d) : d.selectLocal = d := by
  have closed (r : RegionNo) : d.pullInDemand ≠ some r := fun hr => by
    obtain ⟨-, hopen, -⟩ := (pullInDemand_eq_some d r).mp hr
    obtain ⟨hurgency, hpleas, -⟩ := (pullInOpen_iff d).mp hopen
    exact h ⟨hurgency, hpleas⟩
  unfold Dev.selectLocal
  rw [if_pos (not_not.mp (mt localTested_iff.mpr h))]
  exact selectPullIn_rests [] fun r hr => absurd hr (closed r)

theorem selectLocal_chosen {t : Byte} {passed : List Byte} (h : LocalTested d)
    (hc : d.localChoice = .chosen t passed) : d.selectLocal = (d.bump passed).stageEntry t := by
  simp only [Dev.selectLocal, if_neg (localTested_iff.mp h), hc]

theorem selectLocal_blocked (h : LocalTested d) (hc : d.localChoice = .block) : d.selectLocal = d := by
  simp only [Dev.selectLocal, if_neg (localTested_iff.mp h), hc]

theorem selectLocal_nothing {passed : List Byte} (h : LocalTested d) (hc : d.localChoice = .nothing passed) :
    d.selectLocal = d.selectPullIn passed := by
  simp only [Dev.selectLocal, if_neg (localTested_iff.mp h), hc]

end Steps

end Sys2Proof.RetentionDuty
end

section
/-! PROOFS. What the close of a step stages, step by step of its selection, and the bypass counts it raises (R157 to R160,
log 11). -/

namespace Sys2Proof.RetentionDuty

open Sys2Proof.Machine Sys2Proof.Laws Sys2Proof.ClaimLifeCycle

/-! ### The bypass counts (R159) -/

/-- The entries by tag with their bypass counts. -/
def bypassCounts (d : Dev) : List (Byte × Nat) := d.oqs.queue.map (fun e => (e.tag, e.bypass))

theorem bypassRises_none {a b : Dev} (h : bypassCounts b = bypassCounts a) : bypassRises a b [] := by
  simp only [bypassRises, List.not_mem_nil, if_false]
  exact h

theorem stageEntry_counts (t : Byte) (d : Dev) : bypassCounts (d.stageEntry t) = bypassCounts d := by
  unfold Dev.stageEntry
  split
  · simp only [bypassCounts, modEntry_oqs, stageClaim_eq, List.map_map]
    refine List.map_congr_left fun e _ => ?_
    rw [Function.comp_apply]
    split_ifs <;> rfl
  · rfl

/-- Entries of the queue below 4 that are passed over, named by their tags, gain 1, and no other does: no two entries bear
one tag. -/
theorem bypassRises_bump {d m x : Dev} {l : List Entry} (hn : (d.oqs.queue.map Entry.tag).Nodup)
    (hk : NothingStaged d m) (hl : ∀ e ∈ l, e ∈ d.queuedBelowFour)
    (hx : bypassCounts x = bypassCounts (m.bump (l.map Entry.tag))) : bypassRises d x l := by
  have raised : bypassCounts (m.bump (l.map Entry.tag)) = d.oqs.queue.map (fun e =>
      (e.tag, if (l.map Entry.tag).contains e.tag then satInc 4 e.bypass else e.bypass)) := by
    rw [← hk.map_queue _ (fun _ => rfl), bypassCounts, Dev.bump, List.map_map]
    refine List.map_congr_left fun e _ => ?_
    rw [Function.comp_apply]
    split_ifs <;> rfl
  unfold bypassRises
  refine (hx.trans raised).trans (List.map_congr_left fun e he => ?_)
  have queued {y : Entry} (hy : y ∈ l) : y ∈ d.oqs.queue ∧ y.bypass < 4 := by
    have := List.mem_filter.mp (hl y hy)
    simp only [Bool.and_eq_true, decide_eq_true_eq] at this
    exact ⟨this.1, this.2.2⟩
  have named : (l.map Entry.tag).contains e.tag = true ↔ e ∈ l := by
    rw [List.contains_iff_mem, List.mem_map]
    refine ⟨fun ⟨y, hy, htag⟩ => ?_, fun h => ⟨e, h, rfl⟩⟩
    rwa [← List.inj_on_of_nodup_map hn (queued hy).1 he htag]
  by_cases h : e ∈ l
  · have below := (queued h).2
    rw [if_pos (named.mpr h), if_pos h, satInc, if_pos below]
  · rw [if_neg (mt named.mp h), if_neg h]

/-! ### What a selection leaves, by its steps (R158 to R160) -/

/-- Steps 2 and 3 find nothing: a block, or no entry and no pull-in that passes. -/
def NoneLeft (d : Dev) : Prop :=
  d.blocked ∨ (d.standAside d.queuedAtFour ∧ (∀ y ∈ d.queuedBelowFour, d.testEntry y ≠ none) ∧
    ∀ r, d.pullInDemand = some r → d.firstFail .rfb r ≠ none)

/-- What steps 2 and 3 stage: an entry at 4, else the oldest other that passes, else pull-in. -/
def LaterStaged (d x : Dev) (c : Claim) : Prop :=
  (∃ pre y post, d.queuedAtFour = pre ++ y :: post ∧ d.standAside pre ∧ d.testEntry y = none ∧ c.tag = some y.tag ∧
    bypassRises d x []) ∨
  (∃ pre y post, d.standAside d.queuedAtFour ∧ d.queuedBelowFour = pre ++ y :: post ∧
    (∀ z ∈ pre, d.testEntry z ≠ none) ∧ d.testEntry y = none ∧ c.tag = some y.tag ∧
    bypassRises d x (d.lackUnits pre)) ∨
  (d.standAside d.queuedAtFour ∧ (∀ y ∈ d.queuedBelowFour, d.testEntry y ≠ none) ∧ c.tag = none ∧ c.cls = .rfb ∧
    d.pullInDemand = some c.target.region ∧ bypassRises d x (d.lackUnits d.queuedBelowFour))

/-- From one part to another a selection, if one was made, has taken its three steps in order. -/
inductive Stepped (made : Prop) (d x : Dev) : Prop where
  | nothing (hc : x.biu.outbox.claim = none) (rises : bypassRises d x [])
      (why : made → ¬ DemandPasses d ∧ (LocalTested d → NoneLeft d))
  | demand (c : Claim) (hc : x.biu.outbox.claim = some c) (hd : DemandPasses d) (htag : c.tag = none)
      (hcls : c.cls = .rfb) (hr : d.normalDemand = some c.target.region) (rises : bypassRises d x [])
  | later (c : Claim) (hc : x.biu.outbox.claim = some c) (hd : ¬ DemandPasses d) (ht : LocalTested d)
      (staged : LaterStaged d x c)

/-- What a selection stages is seen in the CLAIM slot and in the bypass counts. -/
theorem Stepped.congr {made : Prop} {d x y : Dev} (h : Stepped made d x)
    (hc : y.biu.outbox.claim = x.biu.outbox.claim) (hb : bypassCounts y = bypassCounts x) : Stepped made d y := by
  have kept {l : List Entry} (hr : bypassRises d x l) : bypassRises d y l := hb.trans hr
  cases h with
  | nothing hx rises why => exact .nothing (hc.trans hx) (kept rises) why
  | demand c hx hd htag hcls hr rises => exact .demand c (hc.trans hx) hd htag hcls hr (kept rises)
  | later c hx hd ht staged =>
    refine .later c (hc.trans hx) hd ht ?_
    obtain ⟨pre, z, post, hpre, haside, hz, htag, rises⟩ | ⟨pre, z, post, haside, hpre, hfail, hz, htag, rises⟩ |
      ⟨haside, hfail, htag, hcls, hr, rises⟩ := staged
    · exact .inl ⟨pre, z, post, hpre, haside, hz, htag, kept rises⟩
    · exact .inr (.inl ⟨pre, z, post, haside, hpre, hfail, hz, htag, kept rises⟩)
    · exact .inr (.inr ⟨haside, hfail, htag, hcls, hr, kept rises⟩)

/-- The claim of the entry that step 2 chose. -/
theorem chosen_claim {m : Dev} {t : Byte} {passed : List Byte} (h : m.localChoice = .chosen t passed) :
    ∃ c, ((m.bump passed).stageEntry t).biu.outbox.claim = some c ∧ c.tag = some t := by
  obtain ⟨e, he, rfl, -⟩ := localChoice_chosen h
  obtain ⟨y, hy⟩ := exists_entry he
  rw [stageEntry_bump hy]
  exact ⟨_, rfl, congrArg some (entry_tag hy)⟩

section Selection

variable {d m : Dev} (hs : d.SameButClose m) (hk : NothingStaged d m) (hn : (d.oqs.queue.map Entry.tag).Nodup)
  (hc : d.biu.outbox.claim = none)

include hs hk

theorem same_demandPasses : DemandPasses m ↔ DemandPasses d := by
  simp only [DemandPasses, same_normalDemand hs hk, same_firstFail hs]

theorem same_localTested : LocalTested m ↔ LocalTested d := by
  simp only [LocalTested, hk.rs, same_pleas hs, same_pc hs]

include hn hc

/-- Step 3 after step 2 found nothing and passed these entries over. -/
theorem selectPullIn_stepped {made : Prop} (hd : ¬ DemandPasses d) (ht : LocalTested d)
    (haside : d.standAside d.queuedAtFour) (hnone : ∀ y ∈ d.queuedBelowFour, d.testEntry y ≠ none) :
    Stepped made d (m.selectPullIn ((d.lackUnits d.queuedBelowFour).map Entry.tag)) := by
  by_cases h : ∃ r, d.pullInDemand = some r ∧ d.firstFail .rfb r = none
  · obtain ⟨r, hr, hp⟩ := h
    rw [selectPullIn_stages _ ((same_pullInDemand hs hk).trans hr) ((same_firstFail hs _ _).trans hp)]
    exact .later _ rfl hd ht (.inr (.inr ⟨haside, hnone, rfl, rfl, hr,
      bypassRises_bump hn hk (fun _ => List.mem_of_mem_filter) rfl⟩))
  · have none_passes (r : RegionNo) (hr : d.pullInDemand = some r) : d.firstFail .rfb r ≠ none :=
      fun hp => h ⟨r, hr, hp⟩
    rw [selectPullIn_rests _ fun r hr => (same_firstFail hs _ _).symm ▸ none_passes r (same_pullInDemand hs hk ▸ hr)]
    exact .nothing (hk.claim.trans hc) (bypassRises_none (hk.map_queue _ fun _ => rfl))
      fun _ => ⟨hd, fun _ => .inr ⟨haside, hnone, none_passes⟩⟩

/-- Steps 2 and 3, by what step 2 finds. -/
theorem selectLocal_stepped {made : Prop} (hd : ¬ DemandPasses d) (ht : LocalTested d) :
    Stepped made d m.selectLocal := by
  have htm := (same_localTested hs hk).mpr ht
  have choice := same_localChoice hs hk
  rw [localChoice_eq d] at choice
  obtain ⟨pre, y, post, hpre, haside, hy, hfound⟩ | ⟨pre, y, post, hpre, haside, hy, hfound⟩ | ⟨haside, hfound⟩ :=
    scanBlockers_cases d.queuedBelowFour d.queuedAtFour
  · rw [hfound] at choice
    obtain ⟨c, hclaim, htag⟩ := chosen_claim choice
    rw [selectLocal_chosen htm choice]
    refine .later c hclaim hd ht (.inl ⟨pre, y, post, hpre, haside, hy, htag, ?_⟩)
    exact bypassRises_bump hn hk (fun _ h => by cases h) (stageEntry_counts _ _)
  · rw [hfound] at choice
    rw [selectLocal_blocked htm choice]
    exact .nothing (hk.claim.trans hc) (bypassRises_none (hk.map_queue _ fun _ => rfl))
      fun _ => ⟨hd, fun _ => .inl ⟨pre, y, post, hpre, haside, hy⟩⟩
  · obtain ⟨pre, y, post, hpre, hfail, hy, hscan⟩ | ⟨hfail, hscan⟩ := scanEntries_cases (d := d) [] d.queuedBelowFour
    · rw [hfound, hscan, List.nil_append] at choice
      obtain ⟨c, hclaim, htag⟩ := chosen_claim choice
      rw [selectLocal_chosen htm choice]
      refine .later c hclaim hd ht (.inr (.inl ⟨pre, y, post, haside, hpre, hfail, hy, htag, ?_⟩))
      refine bypassRises_bump hn hk (fun z hz => ?_) (stageEntry_counts _ _)
      rw [hpre]
      exact List.mem_append_left _ (List.mem_of_mem_filter hz)
    · rw [hfound, hscan, List.nil_append] at choice
      rw [selectLocal_nothing htm choice]
      exact selectPullIn_stepped hs hk hn hc hd ht haside hfail

/-- One selection, by its first step. -/
theorem selectOnce_stepped {made : Prop} : Stepped made d m.selectOnce := by
  by_cases hd : DemandPasses d
  · obtain ⟨r, hr, hp⟩ := hd
    rw [selectOnce_demand ((same_normalDemand hs hk).trans hr) ((same_firstFail hs _ _).trans hp)]
    exact .demand _ rfl ⟨r, hr, hp⟩ rfl rfl hr (bypassRises_none (hk.map_queue _ fun _ => rfl))
  · rw [selectOnce_local (mt (same_demandPasses hs hk).mp hd)]
    by_cases ht : LocalTested d
    · exact selectLocal_stepped hs hk hn hc hd ht
    · rw [selectLocal_untested (mt (same_localTested hs hk).mp ht)]
      exact .nothing (hk.claim.trans hc) (bypassRises_none (hk.map_queue _ fun _ => rfl))
        fun _ => ⟨hd, fun h => absurd h ht⟩

end Selection

/-- The close of a step, from an empty CLAIM slot. -/
theorem close_stepped (b : Dev) {d : Dev} (hn : (d.oqs.queue.map Entry.tag).Nodup) (hc : d.biu.outbox.claim = none) :
    Stepped (Dev.SelectionDue b d ∧ d.selectable = true) d (Dev.close b d) := by
  by_cases h : Dev.SelectionDue b d ∧ d.selectable = true
  · obtain ⟨hdue, hsel⟩ := h
    have hs := (opened_same b d).trans (selecting_same _)
    have hk := (opened_stages b d).trans (selecting_stages _)
    rw [close_eq, runSelection_selects ((opened_due b d).mpr hdue) ((opened_selectable b d).trans hsel)]
    have kept := keepSelTimer_stages (selecting (opened b d)).selectOnce
    exact (selectOnce_stepped hs hk hn hc).congr kept.claim (kept.map_queue _ fun _ => rfl)
  · have stands := close_stages_nothing h
    exact .nothing (stands.claim.trans hc) (bypassRises_none (stands.map_queue _ fun _ => rfl)) fun made => absurd made h

/-- Settles O17: the demands by the conditions on the regions, the selection by its steps. -/
theorem selectionKeepsItsOrder : Obligations.SelectionKeepsItsOrder := by
  refine ⟨normalDemand_eq_some, eligible_iff, fun d r => ?pullIn, fun b d hn hc => ?closes⟩
  case pullIn =>
    rw [pullInDemand_eq_some, pullInOpen_iff]
    simp only [and_assoc, NoWorse]
  case closes =>
    intro e demandPasses localTested
    cases close_stepped b hn hc with
    | nothing hclaim rises why =>
      refine ⟨fun c h => ?_, fun c h => ?_, fun _ => rises, fun _ hdue hp hf ho hpl hh => ?_⟩
      · rw [hclaim] at h; cases h
      · rw [hclaim] at h; cases h
      · exact why ⟨hdue, (selectable_iff d).mpr ⟨hc, hp, hf, ho, hpl, hh⟩⟩
    | demand c hclaim hd htag hcls hr rises =>
      refine ⟨fun x h _ => ?_, fun x h hno => absurd hd hno, fun _ => rises, fun h => ?_⟩
      · rw [hclaim] at h
        cases h
        exact ⟨htag, hcls, hr, rises⟩
      · rw [hclaim] at h; cases h
    | later c hclaim hd ht staged =>
      refine ⟨fun x h hyes => absurd hyes hd, fun x h _ => ?_, fun h => ?_, fun h => ?_⟩
      · rw [hclaim] at h
        cases h
        exact ⟨ht, staged⟩
      · rw [hclaim] at h; cases h
      · rw [hclaim] at h; cases h

end Sys2Proof.RetentionDuty
end

section
/-! PROOFS. The urgency evaluation: the greatest debt of an ACTIVE region against the levels, the plea that a change
places, and the local claim it calls back (R128, R129, R132, R161, log 12). -/

namespace Sys2Proof.RetentionDuty

open Sys2Proof.Machine Sys2Proof.Laws Sys2Proof.ClaimLifeCycle Sys2Proof.JoinResync

/-! ### The greatest debt over the ACTIVE regions (R128) -/

section GreatestDebt

/-- The debts of the ACTIVE regions, in the order of their numbers. -/
def activeDebts (r : Rs) : List Int :=
  (regionNos.filter (fun n => !(r.regionAt n).exempt)).map (fun n => (r.regionAt n).debt)

variable {r : Rs}

theorem greatestDebt_eq : r.greatestDebt = (activeDebts r).max?.getD 0 := by
  show (match activeDebts r with | [] => 0 | x :: xs => xs.foldl max x) = _
  cases activeDebts r with
  | nil => rfl
  | cons x xs => rw [List.max?_cons', Option.getD_some]

theorem mem_activeDebts {x : Int} :
    x ∈ activeDebts r ↔ ∃ n, (r.regionAt n).exempt = false ∧ (r.regionAt n).debt = x := by
  have all (n : RegionNo) : n ∈ regionNos := by revert n; decide
  simp [activeDebts, all]

/-- The greatest debt is 0 where no region is ACTIVE, else the greatest of those listed. -/
theorem greatestDebt_cases : (activeDebts r = [] ∧ r.greatestDebt = 0) ∨
    (r.greatestDebt ∈ activeDebts r ∧ ∀ x ∈ activeDebts r, x ≤ r.greatestDebt) := by
  rw [greatestDebt_eq]
  cases h : (activeDebts r).max? with
  | none => exact .inl ⟨List.max?_eq_none_iff.mp h, rfl⟩
  | some g => exact .inr (List.max?_eq_some_iff.mp h)

theorem debt_le_greatestDebt {n : RegionNo} (h : (r.regionAt n).exempt = false) :
    (r.regionAt n).debt ≤ r.greatestDebt := by
  have listed : (r.regionAt n).debt ∈ activeDebts r := mem_activeDebts.mpr ⟨n, h, rfl⟩
  obtain ⟨none_active, -⟩ | ⟨-, greatest⟩ := greatestDebt_cases (r := r)
  · rw [none_active] at listed
    cases listed
  · exact greatest _ listed

/-- The greatest debt is owed by an ACTIVE region, unless every region is EXEMPT. -/
theorem greatestDebt_owed (r : Rs) : (∃ n, (r.regionAt n).exempt = false ∧ (r.regionAt n).debt = r.greatestDebt) ∨
    ((∀ n, (r.regionAt n).exempt = true) ∧ r.greatestDebt = 0) := by
  obtain ⟨none_active, zero⟩ | ⟨listed, -⟩ := greatestDebt_cases (r := r)
  · refine .inr ⟨fun n => ?_, zero⟩
    by_contra active
    have listed := mem_activeDebts.mpr ⟨n, Bool.eq_false_iff.mpr active, rfl⟩
    rw [none_active] at listed
    cases listed
  · exact .inl (mem_activeDebts.mp listed)

end GreatestDebt

/-! ### The plea that a changed urgency state places (R129) -/

theorem placePleaFor_unmarked {d : Dev} (u : Urgency) (h : d.rs.pleaMark = .none) : d.placePleaFor u = d := by
  unfold Dev.placePleaFor
  rw [h]

theorem placePleaFor_marked {d : Dev} (u : Urgency) (h : d.rs.pleaMark ≠ .none) : d.placePleaFor u =
    match u with
    | .urgent => { d with biu := d.biu.placePlea .plea, rs.pleaMark := .plea }
    | .normal => { d with biu := d.biu.placePlea .clear, rs.pleaMark := .clear } := by
  unfold Dev.placePleaFor
  cases hm : d.rs.pleaMark with
  | none => exact absurd hm h
  | plea => rfl
  | clear => rfl

/-- A plea mark of NONE stands, as it is. -/
theorem unmarked_eq {d : Dev} (h : d.rs.pleaMark = .none) : { d with rs.pleaMark := .none } = d := by
  rw [← h]

theorem placePleaFor_normal (d : Dev) : d.placePleaFor .normal = { d with
    rs.pleaMark := if d.rs.pleaMark = .none then .none else .clear,
    biu := if d.rs.pleaMark = .none then d.biu else d.biu.placePlea .clear } := by
  split_ifs with h
  · exact (placePleaFor_unmarked _ h).trans (unmarked_eq h).symm
  · exact placePleaFor_marked _ h

theorem placePleaFor_urgent (d : Dev) : d.placePleaFor .urgent = { d with
    rs.pleaMark := if d.rs.pleaMark = .none then .none else .plea,
    biu := if d.rs.pleaMark = .none then d.biu else d.biu.placePlea .plea } := by
  split_ifs with h
  · exact (placePleaFor_unmarked _ h).trans (unmarked_eq h).symm
  · exact placePleaFor_marked _ h

/-! ### The evaluation (R128, R132) -/

/-- The urgency state the levels ask for, from the state as it is (R128). -/
def Evaluates (d : Dev) (u : Urgency) : Prop :=
  nextUrgency d.rs.urgency d.rs.greatestDebt d.rs.startLevel d.rs.endLevel = u

section Evaluation

variable {d : Dev}

theorem evaluates_urgency (d : Dev) : Evaluates d d.evalUrgency.rs.urgency :=
  (congrArg Rs.urgency (evalUrgency_core d)).symm

theorem evaluates_normal (hu : d.rs.urgency = .urgent) (hg : d.rs.greatestDebt ≤ (d.rs.endLevel : Int)) :
    Evaluates d .normal := by
  rw [Evaluates, hu]
  exact if_pos hg

theorem evaluates_urgent (hu : d.rs.urgency = .normal) (hg : (d.rs.startLevel : Int) ≤ d.rs.greatestDebt) :
    Evaluates d .urgent := by
  rw [Evaluates, hu]
  exact if_pos hg

theorem evalUrgency_stays (h : Evaluates d d.rs.urgency) : d.evalUrgency = d := if_pos h

/-- A change of the urgency state places its plea; an entry into URGENT then calls the local claim back. -/
theorem evalUrgency_changes {u : Urgency} (h : Evaluates d u) (hu : d.rs.urgency ≠ u) :
    d.evalUrgency =
      if u = .urgent then (Dev.placePleaFor u { d with rs.urgency := u }).prompt.urgentUnstage
      else (Dev.placePleaFor u { d with rs.urgency := u }).prompt := by
  subst h
  exact if_neg hu.symm

theorem evalUrgency_normal (hu : d.rs.urgency = .urgent) (hg : d.rs.greatestDebt ≤ (d.rs.endLevel : Int)) :
    d.evalUrgency = (Dev.placePleaFor .normal { d with rs.urgency := .normal }).prompt :=
  evalUrgency_changes (evaluates_normal hu hg) (by simp [hu])

theorem evalUrgency_urgent (hu : d.rs.urgency = .normal) (hg : (d.rs.startLevel : Int) ≤ d.rs.greatestDebt) :
    d.evalUrgency = (Dev.placePleaFor .urgent { d with rs.urgency := .urgent }).prompt.urgentUnstage :=
  evalUrgency_changes (evaluates_urgent hu hg) (by simp [hu])

end Evaluation

/-! ### The local claim called back on entering URGENT (R132, R161) -/

section CalledBack

variable {d : Dev} {c : Claim}

theorem urgentUnstage_empty (h : d.biu.outbox.claim = none) : d.urgentUnstage = d := by
  rw [Dev.urgentUnstage, h]

theorem urgentUnstage_refresh (h : d.biu.outbox.claim = some c) (hc : c.cls = .rfb) : d.urgentUnstage = d := by
  rw [Dev.urgentUnstage, h]
  exact if_pos hc

theorem urgentUnstage_local (h : d.biu.outbox.claim = some c) (hc : c.cls ≠ .rfb) :
    d.urgentUnstage = d.callBack := by
  rw [Dev.urgentUnstage, h]
  exact if_neg hc

/-- A STAGED claim is the one in the CLAIM slot (R48). -/
theorem claim_of_staged (h : d.biu.stagedClaim = some c) : d.biu.outbox.claim = some c := by
  unfold Biu.stagedClaim at h
  split_ifs at h
  exact h

theorem urgentUnstage_inHand (h : d.biu.outbox.claim = some c) (hc : c.cls ≠ .rfb)
    (hi : d.biu.inHandIs .claim = true) :
    d.urgentUnstage = { d with biu.outbox.claim := some { c with unstageDue := true } } :=
  (urgentUnstage_local h hc).trans (callBack_inHand h hi)

theorem urgentUnstage_staged {t : Byte} (h : d.biu.stagedClaim = some c) (hc : c.cls ≠ .rfb) (ht : c.tag = some t) :
    d.urgentUnstage = d.clearClaimSlot.modEntry t (fun e => { e with staged := false }) :=
  calc d.urgentUnstage = d.callBack := urgentUnstage_local (claim_of_staged h) hc
    _ = d.unstage c := callBack_staged h
    _ = _ := unstage_entry ht

end CalledBack

/-- Settles O47: the greatest debt by the list of the ACTIVE regions' debts, the evaluation by the change it makes, the
local claim by where it stands. -/
theorem urgencyFollowsTheGreatestDebt : Obligations.UrgencyFollowsTheGreatestDebt := by
  intro d g
  refine ⟨⟨fun n => debt_le_greatestDebt, greatestDebt_owed d.rs⟩, (evaluates_urgency d).symm, fun h => ?stays,
    fun hu hg => ?normal, fun hu hg => ?urgent, urgentUnstage_empty, fun c => urgentUnstage_refresh,
    fun c => urgentUnstage_inHand, fun c t h hc ht => ?staged⟩
  case stays => exact evalUrgency_stays (h ▸ evaluates_urgency d)
  case normal => rw [evalUrgency_normal hu hg, placePleaFor_normal]
  case urgent => rw [evalUrgency_urgent hu hg, placePleaFor_urgent]
  case staged => rw [urgentUnstage_staged h hc ht, modEntry_eq]; rfl

end Sys2Proof.RetentionDuty
end

section
/-! PROOFS. INTENT ENQUEUE and the intent flags as a step closes (R142, R166, logs 11, 28, 33). -/

namespace Sys2Proof.CalibrationReference

open Sys2Proof.Machine Sys2Proof.Laws Sys2Proof.ClaimLifeCycle

/-- A slot holds an action as its content or as the successor behind it (log 28). -/
theorem holds_iff {α : Type} [DecidableEq α] (x : α) (s : Slot α) :
    s.holds x = true ↔ (∃ c, s.content = some c ∧ c.body = x) ∨ s.next = some x := by
  simp [Slot.holds]

/-! ### The conditions (R142) -/

/-- The own replica holds no own entry. -/
def NoOwnEntry (d : Dev) : Prop := ∀ x ∈ d.ht.calQueue, x.1 ≠ d.pc.station

/-- A QUEUED entry of class CAL, as `Dev.placeEnqueue` tests it. -/
def queuedCal (e : Entry) : Bool := e.cls == .cal && !e.staged

/-- The five conditions for INTENT ENQUEUE. -/
def EnqueueWanted (d : Dev) : Prop :=
  d.pc.presence = .member ∧ (∃ x ∈ d.oqs.queue, x.cls = .cal ∧ x.staged = false) ∧ NoOwnEntry d ∧
    d.biu.outbox.intent.holds .enqueue = false ∧ d.biu.outbox.intent.holds .requeue = false ∧
    ∀ h ∈ d.ownHoldings, h.cls ≠ .cal

/-- Neither the own replica nor the slot speaks for the flags. -/
def FlagsStale (d : Dev) : Prop := NoOwnEntry d ∧ d.biu.outbox.intent.holds .enqueue = false

theorem EnqueueWanted.stale {d : Dev} (h : EnqueueWanted d) : FlagsStale d := by
  obtain ⟨-, -, hentry, henqueue, -⟩ := h
  exact ⟨hentry, henqueue⟩

theorem calEntry_isNone_iff (d : Dev) : (d.ht.calEntry? d.pc.station).isNone = true ↔ NoOwnEntry d := by
  simp [Ht.calEntry?, NoOwnEntry]

theorem queuedCal_iff (e : Entry) : queuedCal e = true ↔ e.cls = .cal ∧ e.staged = false := by
  simp [queuedCal]

theorem wantsEnqueue_iff (d : Dev) : d.wantsEnqueue = true ↔ EnqueueWanted d := by
  simp only [Dev.wantsEnqueue, EnqueueWanted, Bool.and_eq_true, calEntry_isNone_iff, and_assoc]
  simp

/-! ### What each part of the close does to the slot and the flags (log 33) -/

theorem clearStaleFlags_stale {d : Dev} (h : FlagsStale d) :
    d.clearStaleFlags = { d with oqs.queue := d.oqs.queue.map unflagged } := by
  obtain ⟨hentry, henqueue⟩ := h
  exact if_pos (by rw [(calEntry_isNone_iff d).mpr hentry, henqueue]; rfl)

theorem clearStaleFlags_stands {d : Dev} (h : ¬ FlagsStale d) : d.clearStaleFlags = d :=
  if_neg (by simpa only [FlagsStale, Bool.and_eq_true, calEntry_isNone_iff, Bool.not_eq_true'] using h)

theorem placeEnqueue_wanted {d : Dev} (h : EnqueueWanted d) :
    d.placeEnqueue = { d with biu := d.biu.placeIntent .enqueue, oqs.queue := flagFirst queuedCal d.oqs.queue } :=
  if_pos ((wantsEnqueue_iff d).mpr h)

theorem placeEnqueue_unwanted {d : Dev} (h : ¬ EnqueueWanted d) : d.placeEnqueue = d :=
  if_neg (mt (wantsEnqueue_iff d).mp h)

@[simp] theorem noteTake_biu (b d : Dev) : (Dev.noteTake b d).biu = d.biu := by
  unfold Dev.noteTake; split_ifs <;> rfl

@[simp] theorem noteTake_queue (b d : Dev) : (Dev.noteTake b d).oqs.queue = d.oqs.queue := by
  unfold Dev.noteTake; split_ifs <;> rfl

@[simp] theorem keepHeadTimer_biu (b d : Dev) : (Dev.keepHeadTimer b d).biu = d.biu := by
  unfold Dev.keepHeadTimer; split_ifs <;> rfl

@[simp] theorem clearStaleFlags_biu (d : Dev) : d.clearStaleFlags.biu = d.biu := by
  unfold Dev.clearStaleFlags; split_ifs <;> rfl

/-- The first entry that meets the test takes the flag, and no other changes. -/
theorem flagFirst_append {p : Entry → Bool} {pre post : List Entry} {x : Entry} (hpre : ∀ y ∈ pre, ¬ p y = true)
    (hx : p x = true) : flagFirst p (pre ++ x :: post) = pre ++ { x with intent := true } :: post := by
  induction pre with
  | nil => exact if_pos hx
  | cons y ys ih =>
    obtain ⟨hy, hys⟩ := List.forall_mem_cons.mp hpre
    rw [List.cons_append, flagFirst, if_neg hy, ih hys, List.cons_append]

/-! ### Up to the selection -/

section Same

variable {a b : Dev} (hs : a.SameButClose b)

include hs

theorem same_noOwnEntry : NoOwnEntry b ↔ NoOwnEntry a := by
  simp only [NoOwnEntry, same_calQueue hs, same_pc hs]

theorem same_flagsStale (hb : b.biu = a.biu) : FlagsStale b ↔ FlagsStale a := by
  simp only [FlagsStale, same_noOwnEntry hs, hb]

/-- The conditions read no intent flag. -/
theorem same_enqueueWanted (hk : NothingStaged a b) (hb : b.biu = a.biu) : EnqueueWanted b ↔ EnqueueWanted a := by
  have queued : (∃ x ∈ b.oqs.queue, x.cls = .cal ∧ x.staged = false) ↔
      ∃ x ∈ a.oqs.queue, x.cls = .cal ∧ x.staged = false := by
    have tested := congrArg (true ∈ ·) (hk.map_queue queuedCal fun _ => rfl)
    simpa only [List.mem_map, queuedCal_iff, eq_iff_iff] using tested
  simp only [EnqueueWanted, same_pc hs, queued, same_noOwnEntry hs, hb, same_ownHoldings hs]

end Same

/-- The part as the intent flags are looked at: a TAKE that ended is noted, the head timer settled. -/
def headKept (b d : Dev) : Dev := Dev.keepHeadTimer b (Dev.noteTake b d)

theorem opened_eq (b d : Dev) : opened b d = (headKept b d).clearStaleFlags.placeEnqueue := rfl

theorem headKept_same (b d : Dev) : d.SameButClose (headKept b d) :=
  (noteTake_same b d).trans (keepHeadTimer_same b _)

theorem headKept_biu (b d : Dev) : (headKept b d).biu = d.biu := by simp [headKept]

theorem headKept_queue (b d : Dev) : (headKept b d).oqs.queue = d.oqs.queue := by simp [headKept]

theorem headKept_stale (b d : Dev) : FlagsStale (headKept b d) ↔ FlagsStale d :=
  same_flagsStale (headKept_same b d) (headKept_biu b d)

/-- Neither the head timer nor the clearing of flags changes whether ENQUEUE is wanted. -/
theorem cleared_wanted (b d : Dev) : EnqueueWanted (headKept b d).clearStaleFlags ↔ EnqueueWanted d :=
  same_enqueueWanted ((headKept_same b d).trans (clearStaleFlags_same _))
    (((noteTake_stages b d).trans (keepHeadTimer_stages b _)).trans (clearStaleFlags_stages _))
    ((clearStaleFlags_biu _).trans (headKept_biu b d))

theorem cleared_queue_stale (b : Dev) {d : Dev} (h : FlagsStale d) :
    (headKept b d).clearStaleFlags.oqs.queue = d.oqs.queue.map unflagged := by
  rw [clearStaleFlags_stale ((headKept_stale b d).mpr h), headKept_queue]

theorem cleared_queue_stands (b : Dev) {d : Dev} (h : ¬ FlagsStale d) :
    (headKept b d).clearStaleFlags.oqs.queue = d.oqs.queue := by
  rw [clearStaleFlags_stands (mt (headKept_stale b d).mp h), headKept_queue]

theorem opened_biu_wanted (b : Dev) {d : Dev} (h : EnqueueWanted d) :
    (opened b d).biu = d.biu.placeIntent .enqueue := by
  rw [opened_eq, placeEnqueue_wanted ((cleared_wanted b d).mpr h), clearStaleFlags_biu, headKept_biu]

theorem opened_queue_wanted (b : Dev) {d : Dev} (h : EnqueueWanted d) :
    (opened b d).oqs.queue = flagFirst queuedCal (d.oqs.queue.map unflagged) := by
  rw [opened_eq, placeEnqueue_wanted ((cleared_wanted b d).mpr h), cleared_queue_stale b h.stale]

theorem opened_unwanted (b : Dev) {d : Dev} (h : ¬ EnqueueWanted d) :
    opened b d = (headKept b d).clearStaleFlags := by
  rw [opened_eq, placeEnqueue_unwanted (mt (cleared_wanted b d).mp h)]

theorem opened_biu_unwanted (b : Dev) {d : Dev} (h : ¬ EnqueueWanted d) : (opened b d).biu = d.biu := by
  rw [opened_unwanted b h, clearStaleFlags_biu, headKept_biu]

/-! ### Through the selection -/

/-- The entries by tag with their intent flags. -/
def intentFlags (d : Dev) : List (Byte × Bool) := d.oqs.queue.map (fun e => (e.tag, e.intent))

/-- The INTENT slot and the intent flags stand. -/
structure IntentsStand (a b : Dev) : Prop where
  slot : b.biu.outbox.intent = a.biu.outbox.intent
  flags : intentFlags b = intentFlags a

theorem IntentsStand.trans {a b c : Dev} (h : IntentsStand a b) (k : IntentsStand b c) : IntentsStand a c :=
  ⟨k.slot.trans h.slot, k.flags.trans h.flags⟩

theorem bump_flags (passed : List Byte) (d : Dev) : intentFlags (d.bump passed) = intentFlags d :=
  bump_map_queue _ (fun _ _ => rfl) passed d

theorem entryStaged_flags (e : Entry) (d : Dev) : intentFlags (entryStaged e d) = intentFlags d := by
  simp only [intentFlags, entryStaged, modEntry_oqs, stageClaim_eq, List.map_map]
  refine List.map_congr_left fun y _ => ?_
  rw [Function.comp_apply]
  split_ifs <;> rfl

/-- A selection touches neither the slot nor a flag. -/
theorem selected_intents {d x : Dev} (h : Selected d x) : IntentsStand d x := by
  cases h with
  | nothing => exact ⟨rfl, rfl⟩
  | refresh r passed => exact ⟨rfl, bump_flags passed d⟩
  | entry e y passed => exact ⟨rfl, (entryStaged_flags y _).trans (bump_flags passed d)⟩

theorem keepSelTimer_intents (d : Dev) : IntentsStand d d.keepSelTimer := by
  rw [keepSelTimer_eq]; exact ⟨rfl, rfl⟩

/-- What the close leaves in the slot and of the flags is settled before its selection (log 33). -/
theorem close_intents (b d : Dev) : IntentsStand (opened b d) (Dev.close b d) := by
  by_cases h : Dev.SelectionDue b d ∧ d.selectable = true
  · obtain ⟨x, hx, hclose⟩ := close_selects h.1 h.2
    have taken : IntentsStand (opened b d) (selecting (opened b d)) := ⟨rfl, rfl⟩
    rw [hclose]
    exact (taken.trans (selected_intents hx)).trans (keepSelTimer_intents x)
  · have taken : IntentsStand (opened b d) { opened b d with oqs.selectDue := false } := ⟨rfl, rfl⟩
    rw [close_rests h]
    exact taken.trans (keepSelTimer_intents _)

/-! ### What the close leaves -/

theorem unflagged_flags (l : List Entry) :
    (l.map unflagged).map (fun e => (e.tag, e.intent)) = l.map (fun e => (e.tag, false)) := by
  rw [List.map_map]; rfl

section Close

variable (b : Dev) {d : Dev}

theorem close_slot_wanted (h : EnqueueWanted d) : (Dev.close b d).biu.outbox.intent =
    d.biu.outbox.intent.place (d.biu.inHandIs .intent) intentMerge .enqueue := by
  rw [(close_intents b d).slot, opened_biu_wanted b h]
  rfl

theorem close_slot_unwanted (h : ¬ EnqueueWanted d) :
    (Dev.close b d).biu.outbox.intent = d.biu.outbox.intent := by
  rw [(close_intents b d).slot, opened_biu_unwanted b h]

/-- The oldest QUEUED CAL entry bears the flag, and no other. -/
theorem close_flags_wanted (h : EnqueueWanted d) {pre post : List Entry} {x : Entry}
    (hq : d.oqs.queue = pre ++ x :: post) (hx : queuedCal x = true) (hpre : ∀ y ∈ pre, ¬ queuedCal y = true) :
    intentFlags (Dev.close b d) =
      pre.map (fun y => (y.tag, false)) ++ (x.tag, true) :: post.map (fun y => (y.tag, false)) := by
  have older : ∀ y ∈ pre.map unflagged, ¬ queuedCal y = true := List.forall_mem_map.mpr hpre
  have placed : (opened b d).oqs.queue =
      pre.map unflagged ++ { unflagged x with intent := true } :: post.map unflagged := by
    rw [opened_queue_wanted b h, hq, List.map_append, List.map_cons]
    exact flagFirst_append older hx
  rw [(close_intents b d).flags, intentFlags, placed, List.map_append, List.map_cons, unflagged_flags,
    unflagged_flags]
  rfl

theorem close_flags_stale (h : ¬ EnqueueWanted d) (hstale : FlagsStale d) :
    intentFlags (Dev.close b d) = d.oqs.queue.map (fun y => (y.tag, false)) := by
  rw [(close_intents b d).flags, intentFlags, opened_unwanted b h, cleared_queue_stale b hstale, unflagged_flags]

theorem close_flags_stand (h : ¬ FlagsStale d) : intentFlags (Dev.close b d) = intentFlags d := by
  rw [(close_intents b d).flags, intentFlags, opened_unwanted b (mt EnqueueWanted.stale h), cleared_queue_stands b h]
  rfl

end Close

/-- Settles O18: the slot and the flags are settled before the selection, by whether ENQUEUE is wanted and whether the
flags are stale. -/
theorem enqueueIsPlacedWhenItsConditionsHold : Obligations.EnqueueIsPlacedWhenItsConditionsHold := by
  intro b d
  refine ⟨fun hw => ⟨close_slot_wanted b hw, fun pre x post hq hcal hqueued hpre => ?oldest⟩, close_slot_unwanted b,
    fun hw hentry henqueue => close_flags_stale b hw ⟨hentry, henqueue⟩, fun h => ?stand, fun α _ => holds_iff⟩
  case oldest =>
    exact close_flags_wanted b hw hq ((queuedCal_iff x).mpr ⟨hcal, hqueued⟩)
      fun y hy => mt (queuedCal_iff y).mp (hpre y hy)
  case stand =>
    have spoken : ¬ FlagsStale d := fun ⟨hentry, henqueue⟩ =>
      h.elim (absurd hentry) fun hholds => by simp [henqueue] at hholds
    exact close_flags_stand b spoken

end Sys2Proof.CalibrationReference
end

section
/-! PROOFS. How an entry leaves the local queue, and what its deadline or a CANCEL does by its stage (R162 to R166, logs
2, 11, 42). -/

namespace Sys2Proof.LocalQueue

open Sys2Proof.Machine Sys2Proof.Laws Sys2Proof.ClaimLifeCycle Sys2Proof.CalibrationReference

/-! ### An entry leaves the queue (R145, R166) -/

section Leaves

variable {o : Oqs} {e : Entry} {before behind : List Entry}

theorem entry_of_split (hq : o.queue = before ++ e :: behind) (hn : ∀ x ∈ before ++ behind, x.tag ≠ e.tag) :
    o.entry? e.tag = some e := by
  have earlier : ∀ x ∈ before, (!(x.tag == e.tag)) = true := fun x hx => by
    simpa using hn x (List.mem_append_left behind hx)
  exact List.find?_eq_some_iff_append.mpr ⟨beq_self_eq_true e.tag, before, behind, hq, earlier⟩

/-- The entries behind the one that leaves close up (R166). -/
theorem filter_of_split (hq : o.queue = before ++ e :: behind) (hn : ∀ x ∈ before ++ behind, x.tag ≠ e.tag) :
    o.queue.filter (fun x => x.tag != e.tag) = before ++ behind := by
  have stay : (before ++ behind).filter (fun x => x.tag != e.tag) = before ++ behind :=
    List.filter_eq_self.mpr fun x hx => bne_iff_ne.mpr (hn x hx)
  rw [hq, List.filter_append, List.filter_cons_of_neg (by simp), ← List.filter_append, stay]

variable {d : Dev} {rest : List Entry}

theorem removeEntry_unflagged (he : d.oqs.entry? e.tag = some e)
    (hr : d.oqs.queue.filter (fun x => x.tag != e.tag) = rest) (hi : e.intent = false) :
    d.removeEntry e.tag = { d with oqs.queue := rest } := by
  subst hr
  simp only [Dev.removeEntry, he, hi, Bool.false_eq_true, if_false]

theorem removeEntry_lastCal (he : d.oqs.entry? e.tag = some e)
    (hr : d.oqs.queue.filter (fun x => x.tag != e.tag) = rest) (hi : e.intent = true)
    (hcal : ∀ x ∈ rest, x.cls ≠ .cal) :
    d.removeEntry e.tag = { d with oqs.queue := rest, biu := d.biu.placeIntent .withdraw } := by
  have noCal : ¬ rest.any (fun x => x.cls == .cal) = true := by simpa using hcal
  simp only [Dev.removeEntry, he, hr, if_pos hi, if_neg noCal]

theorem removeEntry_flagPasses {x : Entry} {pre post : List Entry} (he : d.oqs.entry? e.tag = some e)
    (hr : d.oqs.queue.filter (fun x => x.tag != e.tag) = pre ++ x :: post) (hi : e.intent = true)
    (hx : x.cls = .cal) (hpre : ∀ y ∈ pre, y.cls ≠ .cal) :
    d.removeEntry e.tag = { d with oqs.queue := pre ++ { x with intent := true } :: post } := by
  have isCal : (x.cls == .cal) = true := beq_iff_eq.mpr hx
  have older : ∀ y ∈ pre, ¬ (y.cls == .cal) = true := fun y hy => mt beq_iff_eq.mp (hpre y hy)
  have someCal : (pre ++ x :: post).any (fun x => x.cls == .cal) = true :=
    List.any_eq_true.mpr ⟨x, by simp, isCal⟩
  simp only [Dev.removeEntry, he, hr, if_pos hi, if_pos someCal]
  rw [flagFirst_append older isCal]

end Leaves

/-! ### By the stage of the entry (R162 to R165) -/

section Stages

variable {d : Dev} {e : Entry} {tag : Byte} {n : Notice}

theorem dropEntry_queued (hs : e.staged = false) : d.dropEntry e n = (d.removeEntry e.tag).notify n := by
  simp only [Dev.dropEntry, hs, Bool.false_eq_true, if_false]
  rfl

/-- The claim leaves its slot first, and the reserved place lapses with it (log 42). -/
theorem dropEntry_staged (hs : e.staged = true) :
    d.dropEntry e n = (d.clearClaimSlot.removeEntry e.tag).notify n := by
  simp only [Dev.dropEntry, if_pos hs]
  rfl

theorem entrySending_queued (hs : e.staged = false) : ¬ d.entrySending e = true := by
  simp [Dev.entrySending, hs]

theorem entrySending_waits (hc : d.biu.claimSending = false) : ¬ d.entrySending e = true := by
  simp [Dev.entrySending, hc]

theorem entrySending_sends (hs : e.staged = true) (hc : d.biu.claimSending = true) : d.entrySending e = true := by
  simp [Dev.entrySending, hs, hc]

/-! ### A deadline (R162, R163) -/

theorem deadlineAt_entry {t : Time} (he : d.oqs.entry? tag = some e) (ho : e.overdue = false)
    (ht : e.deadline = some t) : d.deadlineAt tag = some t := by
  simp only [Dev.deadlineAt, he, Option.bind_some, ho, Bool.false_eq_true, if_false, ht]

theorem deadlinePass_drops (he : d.oqs.entry? tag = some e) (hs : ¬ d.entrySending e = true) :
    d.deadlinePass tag = d.dropEntry e (.expired tag) := by
  simp only [Dev.deadlinePass, he, if_neg hs]

theorem deadlinePass_marks (he : d.oqs.entry? tag = some e) (hs : d.entrySending e = true) :
    d.deadlinePass tag = d.modEntry tag (fun x => { x with overdue := true }) := by
  simp only [Dev.deadlinePass, he, if_pos hs]

theorem exec_deadlinePasses {s : State} {t : Time} (hu : s.dev.Up) (ht : s.dev.deadlineAt tag = some t) :
    exec (.deadlinePasses tag) s = .next (s.afterEnd t ((s.dev.elapseTo t).deadlinePass tag)) :=
  answer_actAt s (Dev.deadlinePass tag) hu ht

/-! ### A CANCEL (R164, R165) -/

theorem cancelRequest_noEntry (he : d.oqs.entry? tag = none) :
    d.cancelRequest tag = d.notify (.refuse .cancel (some tag) (d.cancelHolding tag)) := by
  simp only [Dev.cancelRequest, he]
  rfl

theorem cancelRequest_drops (he : d.oqs.entry? tag = some e) (hs : ¬ d.entrySending e = true) :
    d.cancelRequest tag = d.dropEntry e (.cancelled tag) := by
  simp only [Dev.cancelRequest, he, if_neg hs]

theorem cancelRequest_sends {c : Claim} (he : d.oqs.entry? tag = some e) (hs : d.entrySending e = true)
    (hc : d.biu.outbox.claim = some c) :
    d.cancelRequest tag = if c.cancel then d.notify (.refuse .cancel (some tag) .unknown)
      else { d with biu.outbox.claim := some { c with cancel := true } } := by
  simp only [Dev.cancelRequest, he, if_pos hs, Dev.cancelSending, hc]
  rfl

theorem cancelHolding_found {h : Holding}
    (hf : d.ownHoldings.find? (fun h => h.part.bind OwnPart.tag == some tag) = some h) :
    d.cancelHolding tag = if (h.part.map OwnPart.goSent).getD false then .running else .unknown := by
  simp only [Dev.cancelHolding, hf]

theorem cancelHolding_none (hn : ∀ h ∈ d.ownHoldings, h.part.bind OwnPart.tag ≠ some tag) :
    d.cancelHolding tag = .unknown := by
  have noneFound : d.ownHoldings.find? (fun h => h.part.bind OwnPart.tag == some tag) = none :=
    List.find?_eq_none.mpr fun h hh => mt beq_iff_eq.mp (hn h hh)
  simp only [Dev.cancelHolding, noneFound]

theorem exec_cancel {s : State} {dt : Time} (ht : s.dev.TakesTransfers) :
    exec (.cancel dt tag) s = .next (s.afterPort dt ((s.dev.asked dt).cancelRequest tag)) :=
  answer_port s dt (fun d => Dev.cancelRequest tag d.quietSdo) ht

end Stages

/-- Settles O49: the deadline by the stage of its entry, then the entry that leaves by its intent flag. -/
theorem deadlineRemovesOrMarksTheEntry : Obligations.DeadlineRemovesOrMarksTheEntry := by
  refine ⟨fun s tag e t hu he ho hd => ?deadline, fun d e before behind hq hn => ?leaves⟩
  case deadline =>
    intro d
    have he' : d.oqs.entry? tag = some e := he
    obtain rfl := entry_tag he
    rw [exec_deadlinePasses hu (deadlineAt_entry he ho hd)]
    refine ⟨fun hs => ?queued, fun hs hc => ?waits, fun hs hc => ?sends⟩
    case queued => rw [deadlinePass_drops he' (entrySending_queued hs), dropEntry_queued hs]
    case waits => rw [deadlinePass_drops he' (entrySending_waits hc), dropEntry_staged hs]; rfl
    case sends => rw [deadlinePass_marks he' (entrySending_sends hs hc), modEntry_eq]
  case leaves =>
    have he := entry_of_split hq hn
    have hr := filter_of_split hq hn
    exact ⟨removeEntry_unflagged he hr, removeEntry_lastCal he hr,
      fun x pre post hi hsplit => removeEntry_flagPasses he (hr.trans hsplit) hi⟩

/-- Settles O52: a tag without an entry by the own holdings, an entry by its stage. -/
theorem cancelActsByTheEntrysStage : Obligations.CancelActsByTheEntrysStage := by
  intro s dt tag ht d
  rw [exec_cancel ht]
  refine ⟨fun he => ⟨fun h hf hgo => ?running, fun h hf hgo => ?noGo, fun hn => ?noHolding⟩, fun e he hs => ?queued,
    fun e he hs hc => ?waits, fun e c he hs hsend hc => ?sends⟩
  case running => rw [cancelRequest_noEntry he, cancelHolding_found hf, if_pos hgo]
  case noGo => rw [cancelRequest_noEntry he, cancelHolding_found hf, if_neg (Bool.eq_false_iff.mp hgo)]
  case noHolding => rw [cancelRequest_noEntry he, cancelHolding_none hn]
  case queued =>
    obtain rfl := entry_tag he
    rw [cancelRequest_drops he (entrySending_queued hs), dropEntry_queued hs]
  case waits =>
    obtain rfl := entry_tag he
    rw [cancelRequest_drops he (entrySending_waits hc), dropEntry_staged hs]
    rfl
  case sends => rw [cancelRequest_sends he (entrySending_sends hs hsend) hc]

end Sys2Proof.LocalQueue
end

section
/-! PROOFS. SUBMIT: the first condition that fails, and the entry that joins (R154 to R156, log 11). -/

namespace Sys2Proof.LocalQueue

open Sys2Proof.Machine Sys2Proof.Laws Sys2Proof.JoinResync

/-! ### The conditions of R155 -/

/-- The codes 1 to 3 name the classes that may be submitted (R155). -/
theorem submittedClass_eq (cls : Byte) : submittedClass cls =
    if cls = 1 then some .cal else if cls = 2 then some .scb else if cls = 3 then some .ini else none := by
  by_cases hhigh : 3 < cls.toNat
  · have outside : cls ≠ 1 ∧ cls ≠ 2 ∧ cls ≠ 3 := by bv_omega
    obtain ⟨h1, h2, h3⟩ := outside
    simp only [submittedClass, cls_ofCode_none hhigh, if_neg h1, if_neg h2, if_neg h3]
  · have codes : cls = 0 ∨ cls = 1 ∨ cls = 2 ∨ cls = 3 := by bv_omega
    rcases codes with rfl | rfl | rfl | rfl <;> rfl

theorem submittedClass_scb_iff (cls : Byte) : submittedClass cls = some .scb ↔ cls = 2 := by
  rw [submittedClass_eq]
  split_ifs with hcal hscb
  · simp [hcal]
  · simp [hscb]
  · simpa using hscb
  · simpa using hscb

/-- A class out of the three, or a region above 3 with one that names a region. -/
theorem badFields_iff (cls region : Byte) : (!submitFieldsOk cls region) = true ↔
    (cls ≠ 1 ∧ ¬ (cls = 2 ∨ cls = 3)) ∨ ((cls = 2 ∨ cls = 3) ∧ 3 < region.toNat) := by
  unfold submitFieldsOk
  rw [submittedClass_eq]
  split_ifs with hcal hscb hini
  · simp [hcal]
  · simp [hscb]
  · simp [hini]
  · exact iff_of_true rfl (.inl ⟨hcal, not_or.mpr ⟨hscb, hini⟩⟩)

theorem tagInUse_iff (d : Dev) (tag : Byte) : d.tagInUse tag = true ↔
    (∃ e ∈ d.oqs.queue, e.tag = tag) ∨ (∃ h ∈ d.ownHoldings, h.part.bind OwnPart.tag = some tag) := by
  simp [Dev.tagInUse]

/-! ### The entry that joins (R156) -/

/-- The class of an accepted SUBMIT, by its code. -/
def acceptedClass (cls : Byte) : Cls := if cls = 1 then .cal else if cls = 2 then .scb else .ini

theorem acceptedClass_cal_iff (cls : Byte) : acceptedClass cls = .cal ↔ cls = 1 := by
  unfold acceptedClass
  split_ifs with hcal
  · simp [hcal]
  · simpa using hcal
  · simpa using hcal

theorem submittedClass_accepted {cls region : Byte} (h : submitFieldsOk cls region = true) :
    submittedClass cls = some (acceptedClass cls) := by
  unfold submitFieldsOk at h
  rw [submittedClass_eq] at h ⊢
  unfold acceptedClass
  split_ifs with hcal hscb hini
  · rfl
  · rfl
  · rfl
  · rw [if_neg hcal, if_neg hscb, if_neg hini] at h
    cases h

theorem newEntry_accepted (now : Time) (tag cls region : Byte) (notAfter : Word16) :
    newEntry now tag (acceptedClass cls) region notAfter =
      { tag := tag, cls := acceptedClass cls,
        region := if cls = 1 then none else some (regionOf region),
        deadline := if notAfter = 0 then none else some (now + us (100 * notAfter.toNat)),
        overdue := false, bypass := 0, staged := false, intent := false } := by
  simp only [newEntry, acceptedClass_cal_iff]

section Request

variable {d : Dev} {tag cls region : Byte} {notAfter : Word16}

theorem fieldsOk_of_noRefusal (h : d.submitRefusal tag cls region = none) : submitFieldsOk cls region = true := by
  unfold Dev.submitRefusal at h
  split_ifs at h with _ _ hfields
  simpa using hfields

theorem submitRequest_refused {r : Reason} (h : d.submitRefusal tag cls region = some r) :
    d.submitRequest tag cls region notAfter = d.notify (.refuse .submit (some tag) r) := by
  simp only [Dev.submitRequest, h]
  rfl

theorem submitRequest_accepted (h : d.submitRefusal tag cls region = none) :
    d.submitRequest tag cls region notAfter = Dev.prompt (Dev.notify (.accept tag)
      { d with oqs.queue := d.oqs.queue ++ [newEntry d.now tag (acceptedClass cls) region notAfter] }) := by
  simp only [Dev.submitRequest, h, submittedClass_accepted (fieldsOk_of_noRefusal h)]

theorem exec_submit {s : State} {dt : Time} (ht : s.dev.TakesTransfers) :
    exec (.submit dt tag cls region notAfter) s =
      .next (s.afterPort dt ((s.dev.asked dt).submitRequest tag cls region notAfter)) :=
  answer_port s dt (fun d => Dev.submitRequest tag cls region notAfter d.quietSdo) ht

end Request

/-- Settles O51: the conditions one by one in the order of R155, then the request by whether one fails. -/
theorem submitIsRefusedInOrderOrAccepted : Obligations.SubmitIsRefusedInOrderOrAccepted := by
  intro s dt tag cls region notAfter ht d scb named reason
  have exempt : scb ∧ (d.rs.regionAt (regionOf region)).exempt = true ↔
      submittedClass cls = some .scb ∧ (d.rs.regionAt (regionOf region)).exempt = true :=
    and_congr_left' (submittedClass_scb_iff cls).symm
  have hreason : reason = d.submitRefusal tag cls region :=
    if_congr Iff.rfl rfl (if_congr Iff.rfl rfl (if_congr (badFields_iff cls region).symm rfl
      (if_congr exempt rfl (if_congr (tagInUse_iff d tag).symm rfl rfl))))
  rw [exec_submit ht, hreason]
  refine ⟨fun r hr => ?refused, fun hnone => ?accepted⟩
  case refused => rw [submitRequest_refused hr]
  case accepted =>
    rw [submitRequest_accepted hnone, newEntry_accepted]
    rfl

end Sys2Proof.LocalQueue
end

section
/-! PROOFS. What every step keeps of the port unit: the bound on the notice queue, the place that GO is sure of, and the
notice that a TAKE has read (R59, R172, R178). -/

namespace Sys2Proof.ControllerPort

open Sys2Proof.Machine Sys2Proof.Laws

/-- A reset leaves the queue empty, with no place reserved and no claim or TAKE under way (R184). -/
theorem held_port (k : ResetKind) : (Dev.held k).PortSound :=
  ⟨Nat.zero_le 16, fun h => absurd h Bool.false_ne_true, fun h => absurd h Bool.false_ne_true, fun h => absurd rfl h⟩

/-- The release of reset queues RESET and touches nothing else of the port unit but its note of CS_N (R170, R184). -/
theorem release_port {d : Dev} (sid : BitVec 4) (pins : ReleasePins) (h : d.PortSound) :
    (d.release sid pins).PortSound := notify_port (.reset d.resetKind) h

/-- What keeps the notice queue, the reserved place and the TAKE under way in order: the passing of time, the close of a
step and every effect. -/
theorem keeps_port : Keeps Dev.PortSound where
  held := held_port
  elapseTo _ _ h := h
  close b _ := close_port b
  release sid pins _ := release_port sid pins
  ignored _ h := h
  busFree _ := busFree_port
  arbitrationLost _ := arbitrationLost_port
  bitError _ := bitError_port
  sendComplete acks _ := sendComplete_port acks
  receive hd b _ := receive_port hd b
  discardFrame _ h := h
  ownNumber _ := ownNumber_port
  listenEnd _ := listenEnd_port
  enterMember _ := enterMember_port
  beaconDue _ _ h := h
  fallSilent x _ := fallSilent_port x
  expirePeer _ _ _ h := h
  ageing _ _ h := h
  leaseExpire x t _ := leaseExpire_port x t
  accrue r t _ h _ := accrue_port r t h
  headExpire _ := headExpire_port
  prompt _ h := h
  deadlinePass t _ := deadlinePass_port t
  placeLeave _ h := h
  recover _ := recover_port
  quietSdo _ h := h
  request q _ := takeRequest_port q
  discardPut _ h := h
  malformed _ h := h
  take n _ := take_port n
  peek _ _ h := h
  endTake _ := takeEnds_port

/-- Settles O7: the resets leave the port unit in order, and every effect of a command keeps it so. -/
theorem noticeQueueInvariantKept : Obligations.NoticeQueueInvariantKept :=
  fun _ _ h hstep => keeps_port.step h hstep

/-! ### Every command completes -/

/-- Every command has a meaning, and each answers with what becomes of the part. -/
theorem exec_answers (c : Instr) (s : State) : ∃ d, exec c s = s.answer d := by
  cases c
  all_goals exact ⟨_, rfl⟩

/-- Settles O2: an answer leaves the commands that wait as they are. -/
theorem everyCommandCompletes : Obligations.EveryCommandCompletes := exec_answers

end Sys2Proof.ControllerPort
end

section
/-! PROOFS. The notice queue: how a notice joins or is dropped, what a TAKE under way makes of it, and the bytes of
every notice (R59, R178, R188, log 39). -/

namespace Sys2Proof.ControllerPort

open Sys2Proof.Machine Sys2Proof.Laws Sys2Proof.RetentionDuty

/-! ### A notice is judged (R178) -/

section Judged

variable {p : Pu}

theorem openPlaces_eq (reserved : Bool) :
    Config.noticeCap - (if reserved then 1 else 0) = if reserved then 15 else 16 := by
  cases reserved <;> rfl

theorem push_joins (n : Notice) (h : p.notices.length < if p.goReserved then 15 else 16) :
    p.push n = Pu.countTake { p with notices := p.notices ++ [n] } := by
  rw [← openPlaces_eq] at h
  rw [Pu.push, Pu.judge, if_pos h]

theorem push_drops (n : Notice) (h : ¬ p.notices.length < if p.goReserved then 15 else 16) :
    p.push n = Pu.countTake { p with lost := inc16 p.lost, portError := true } := by
  rw [← openPlaces_eq] at h
  rw [Pu.push, Pu.judge, if_neg h]

/-! ### The TAKE under way (R172, log 39) -/

theorem countTake_idle (h : p.takeLeft = 0) : p.countTake = p := by
  rw [Pu.countTake, if_neg (by omega), h, Nat.zero_sub, ← h]

theorem countTake_ends (h : p.takeLeft = 1) : p.countTake = { p with notices := p.notices.tail, takeLeft := 0 } :=
  if_pos h

theorem countTake_goesOn {k : Nat} (h : p.takeLeft = k + 2) : p.countTake = { p with takeLeft := k + 1 } := by
  rw [Pu.countTake, if_neg (by omega), h]
  rfl

@[simp] theorem countTake_portError (p : Pu) : p.countTake.portError = p.portError := by
  unfold Pu.countTake Pu.endTake
  split_ifs <;> rfl

/-- Of two notices that meet a full queue and a TAKE that ends behind the first, the first is dropped and the second
takes the place that the TAKE frees. -/
theorem push_push_takeEnds (a b : Notice) (ht : p.takeLeft = 1)
    (hfull : p.notices.length = if p.goReserved then 15 else 16) :
    (p.push a).push b =
      { p with notices := p.notices.tail ++ [b], takeLeft := 0, lost := inc16 p.lost, portError := true } := by
  have dropped : p.push a =
      { p with notices := p.notices.tail, takeLeft := 0, lost := inc16 p.lost, portError := true } :=
    (push_drops a (by rw [hfull]; exact lt_irrefl _)).trans (countTake_ends ht)
  have freed : p.notices.tail.length < if p.goReserved then 15 else 16 := by
    rw [List.length_tail, hfull]
    split_ifs <;> decide
  rw [dropped, push_joins b freed, countTake_idle rfl]

end Judged

/-- GO finds its reserved place open, whatever joined meanwhile (R59). -/
theorem notifyGo_reserved {d : Dev} (n : Notice) (h : d.PortSound) (hr : d.pu.goReserved = true) : d.notifyGo n =
    { d with pu := Pu.countTake { d.pu with notices := d.pu.notices ++ [n], goReserved := false } } := by
  obtain ⟨-, reserved, -⟩ := h
  have room : d.pu.notices.length < 16 := Nat.lt_succ_of_le (reserved hr)
  exact congrArg (fun p => ({ d with pu := p } : Dev)) (push_joins (p := { d.pu with goReserved := false }) n room)

/-! ### The bytes of the notices (R188) -/

/-- The region in bits 5 and 4 and the row group in bits 2 to 0 (R186). -/
theorem targetByte_toNat (t : Target) : t.byte.toNat = 16 * t.region.toNat + t.group.toNat := by
  obtain ⟨region, group⟩ := t
  revert region group
  decide

/-- The byte of a GO that says what it is for: the target of a refresh, the tag of any other operation (R188). -/
def goObject (c : Cls) (tag : Option Byte) (t : Target) : Byte := if c = .rfb then t.byte else orZero tag

theorem goObject_refresh {c : Cls} (tag : Option Byte) (t : Target) (h : c = .rfb) :
    (goObject c tag t).toNat = 16 * t.region.toNat + t.group.toNat := by
  rw [goObject, if_pos h, targetByte_toNat]

theorem goObject_local {c : Cls} (tag : Option Byte) (t : Target) (h : c ≠ .rfb) :
    goObject c tag t = tag.getD 0 := if_neg h

theorem late_bytes (h : Byte) (tag : Option Byte) (o : DoneOutcome) : (Notice.late h tag o).bytes =
    [5, 0x49, h, if tag.isSome then 1 else 0, tag.getD 0, match o with | .ok => 0 | .fail => 1 | .aborted => 2] := by
  rw [← bitAt_zero]
  cases o <;> rfl

/-- Settles O58: each notice by whether it finds a place and whether a TAKE ends behind it, then kind by kind. -/
theorem noticesJoinAndAreLaidOutAsListed : Obligations.NoticesJoinAndAreLaidOutAsListed := by
  refine ⟨⟨fun p n => ⟨push_joins n, push_drops n⟩,
      fun p => ⟨countTake_idle, countTake_ends, fun k => countTake_goesOn⟩, fun p => push_push_takeEnds,
      fun d n => notifyGo_reserved n⟩,
    ⟨rfl, rfl⟩, fun own b => rfl, rfl, fun t => ⟨rfl, rfl, rfl⟩, fun q key r => rfl, rfl, rfl,
    fun h c tag tgt lease => ?go, late_bytes, fun r n => rfl, fun h n x => ⟨rfl, rfl⟩, fun x => rfl, rfl, rfl,
    fun topic part content => rfl⟩
  case go => exact ⟨goObject c tag tgt, rfl, goObject_refresh tag tgt, goObject_local tag tgt⟩

end Sys2Proof.ControllerPort
end

section
/-! PROOFS. The transfers of the controller: which request the bytes of a PUT spell, what becomes of a transfer that
spells none, and of one begun before the release of reset (R170, R171, R187, logs 20, 21, 22). -/

namespace Sys2Proof.ControllerPort

open Sys2Proof.Machine Sys2Proof.Laws

/-! ### Type and field bytes (R187) -/

/-- The type byte of a request and the length that a PUT declares for it: its type and its field bytes (R187). -/
def declared : Request → Nat × Nat
  | .setup _ _ _ => (1, 4)
  | .submit _ _ _ _ => (2, 6)
  | .cancel _ => (3, 2)
  | .done _ _ => (4, 3)
  | .rate _ => (5, 2)
  | .hold => (6, 1)
  | .resume => (7, 1)
  | .query _ _ => (8, 3)
  | .leave => (9, 1)
  | .rejoin => (10, 1)

theorem declared_iff (type len : Nat) : (∃ r, declared r = (type, len)) ↔
    (type = 1 ∧ len = 4) ∨ (type = 2 ∧ len = 6) ∨ (type = 3 ∧ len = 2) ∨ (type = 4 ∧ len = 3) ∨
      (type = 5 ∧ len = 2) ∨ (type = 6 ∧ len = 1) ∨ (type = 7 ∧ len = 1) ∨ (type = 8 ∧ len = 3) ∨
      (type = 9 ∧ len = 1) ∨ (type = 10 ∧ len = 1) := by
  constructor
  · rintro ⟨r, hr⟩
    cases r
    all_goals
      cases hr
      decide
  · rintro (⟨rfl, rfl⟩ | ⟨rfl, rfl⟩ | ⟨rfl, rfl⟩ | ⟨rfl, rfl⟩ | ⟨rfl, rfl⟩ | ⟨rfl, rfl⟩ | ⟨rfl, rfl⟩ | ⟨rfl, rfl⟩ |
      ⟨rfl, rfl⟩ | ⟨rfl, rfl⟩)
    exacts [⟨.setup 0 0 0, rfl⟩, ⟨.submit 0 0 0 0, rfl⟩, ⟨.cancel 0, rfl⟩, ⟨.done 0 0, rfl⟩, ⟨.rate 0, rfl⟩,
      ⟨.hold, rfl⟩, ⟨.resume, rfl⟩, ⟨.query 0 0, rfl⟩, ⟨.leave, rfl⟩, ⟨.rejoin, rfl⟩]

section Fields

variable {type : Byte} {fields : List Byte}

/-- There are ten types. -/
theorem ofFields_beyond (fields : List Byte) (h : 10 < type.toNat) : Request.ofFields type fields = none := by
  unfold Request.ofFields
  obtain ⟨k, hk⟩ := Nat.exists_eq_add_of_le' h
  rw [hk]
  rfl

/-- Type and field bytes that spell a request are the request's own type and as many as it has: no other type and number
of fields, told apart here, spell one. -/
theorem ofFields_some {r : Request} (h : Request.ofFields type fields = some r) :
    declared r = (type.toNat, fields.length + 1) := by
  by_cases hb : 10 < type.toNat
  · rw [ofFields_beyond fields hb] at h
    cases h
  · obtain ⟨⟨t, ht⟩⟩ := type
    have hle : t ≤ 10 := not_lt.mp hb
    rcases fields with _ | ⟨a, _ | ⟨b, _ | ⟨c, _ | ⟨e, _ | ⟨f, _ | ⟨g, rest⟩⟩⟩⟩⟩⟩
    all_goals
      interval_cases t <;> cases h
      all_goals rfl

/-- As many field bytes as a request has, under its type, spell one of that kind, whatever they are. -/
theorem ofFields_spells {r : Request} (h : declared r = (type.toNat, fields.length + 1)) :
    ∃ q, Request.ofFields type fields = some q := by
  obtain ⟨⟨t, ht⟩⟩ := type
  cases r
  all_goals
    obtain ⟨htype, hlen⟩ := Prod.mk.inj h
    rcases fields with _ | ⟨a, _ | ⟨b, _ | ⟨c, _ | ⟨e, _ | ⟨f, _ | ⟨g, rest⟩⟩⟩⟩⟩⟩
    all_goals cases hlen
    cases htype
    exact ⟨_, rfl⟩

end Fields

/-! ### The form checks of a PUT (R171) -/

section Form

variable {len type : Byte} {rest : List Byte}

/-- Where the declared bytes are there, those beyond them are ignored. -/
theorem ofPut_declared {k : Nat} (hlen : len.toNat = k + 1) (henough : k ≤ rest.length) :
    Request.ofPut (len :: type :: rest) = Request.ofFields type (rest.take k) := by
  have enough : len.toNat ≤ (type :: rest).length := by rw [hlen]; exact Nat.succ_le_succ henough
  rw [Request.ofPut, if_pos enough, hlen, List.take_succ_cons]

theorem ofPut_short (h : rest.length + 1 < len.toNat) : Request.ofPut (len :: type :: rest) = none :=
  if_neg (not_le.mpr h)

theorem ofPut_empty (hlen : len.toNat = 0) (bytes : List Byte) : Request.ofPut (len :: bytes) = none := by
  rw [Request.ofPut, if_pos (by omega), hlen, List.take_zero]

theorem ofPut_lengthAlone (len : Byte) : Request.ofPut [len] = none := by
  rw [Request.ofPut, List.take_nil]
  exact ite_self _

/-- The bytes of a PUT spell a request exactly where they give a type, its own length, and no fewer bytes than that. -/
theorem ofPut_iff (bytes : List Byte) : (∃ r, Request.ofPut bytes = some r) ↔
    ∃ (len type : Byte) (rest : List Byte), bytes = len :: type :: rest ∧ len.toNat ≤ rest.length + 1 ∧
      ∃ r, declared r = (type.toNat, len.toNat) := by
  constructor
  · rintro ⟨r, hr⟩
    rcases bytes with _ | ⟨len, _ | ⟨type, rest⟩⟩
    · cases hr
    · rw [ofPut_lengthAlone] at hr
      cases hr
    · by_cases hshort : rest.length + 1 < len.toNat
      · rw [ofPut_short hshort] at hr
        cases hr
      cases hlen : len.toNat with
      | zero =>
        rw [ofPut_empty hlen] at hr
        cases hr
      | succ k =>
        have henough : k ≤ rest.length := by omega
        rw [ofPut_declared hlen henough] at hr
        refine ⟨len, type, rest, rfl, not_lt.mp hshort, r, ?_⟩
        rw [ofFields_some hr, List.length_take, Nat.min_eq_left henough, hlen]
  · rintro ⟨len, type, rest, rfl, henough, r, hr⟩
    obtain ⟨k, hlen⟩ : ∃ k, len.toNat = k + 1 := by
      cases r
      all_goals exact ⟨_, (Prod.mk.inj hr).2.symm⟩
    have hk : k ≤ rest.length := by omega
    rw [ofPut_declared hlen hk]
    refine ofFields_spells (r := r) ?_
    rw [hr, List.length_take, Nat.min_eq_left hk, hlen]

end Form

/-! ### What becomes of a transfer (R170, R171) -/

/-- A PUT whose bytes spell a request is that request (R175, log 20). -/
theorem exec_put_spells (s : State) (dt : Time) {len type : Byte} {fields : List Byte} {r : Request}
    (extra : List Byte) (hlen : len.toNat = fields.length + 1) (hr : Request.ofFields type fields = some r) :
    exec (.putMalformed dt (len :: type :: (fields ++ extra))) s =
      s.answer (Dev.actPort (fun d => Dev.takeRequest r d.quietSdo) (s.dev.elapse dt)) := by
  have spelt : Request.ofPut (len :: type :: (fields ++ extra)) = some r := by
    rw [ofPut_declared hlen (by simp), List.take_left, hr]
  have put : Dev.put (len :: type :: (fields ++ extra)) = fun d => Dev.takeRequest r d.quietSdo := by
    funext d
    rw [Dev.put, spelt]
  rw [← put]
  rfl

section Taken

variable {s : State} {dt : Time}

@[simp] theorem endTake_malformed (d : Dev) : d.endTake.pu.malformed = d.pu.malformed := by
  rw [endTake_pu]
  split_ifs <;> rfl

theorem exec_put_discards {bytes : List Byte} (h : s.dev.TakesTransfers) (hb : Request.ofPut bytes = none) :
    exec (.putMalformed dt bytes) s = .next (s.afterPort dt
      { s.dev.asked dt with pu.malformed := inc16 s.dev.pu.malformed, pu.portError := true }) := by
  have discarded (d : Dev) : d.put bytes = d.quietSdo.discardPut := by rw [Dev.put, hb]
  have count : (s.dev.elapse dt).endTake.pu.malformed = s.dev.pu.malformed := endTake_malformed _
  refine (answer_port s dt (Dev.put bytes) h).trans ?_
  rw [discarded, ← count]
  rfl

theorem transfer_other (d : Dev) {c : Byte} (h1 : c ≠ 0xE1) (h2 : c ≠ 0xE2) (h3 : c ≠ 0xE3) :
    d.transfer (some c) = { d.quietSdo with pu.malformed := inc16 d.pu.malformed } := by
  unfold Dev.transfer
  split
  · next h => cases h
  · next c' h =>
    cases h
    split
    · next hc => exact absurd (BitVec.eq_of_toNat_eq hc) h1
    · next hc => exact absurd (BitVec.eq_of_toNat_eq hc) h2
    · next hc => exact absurd (BitVec.eq_of_toNat_eq hc) h3
    · rfl

theorem exec_transferCodeInvalid (h : s.dev.TakesTransfers) (code : Option Byte) :
    exec (.transferCodeInvalid dt code) s =
      .next (s.afterPort dt ((s.dev.elapse dt).endTake.transfer code)) :=
  answer_port s dt (Dev.transfer code) h

theorem exec_otherCode {c : Byte} (h : s.dev.TakesTransfers) (h1 : c ≠ 0xE1) (h2 : c ≠ 0xE2) (h3 : c ≠ 0xE3) :
    exec (.transferCodeInvalid dt (some c)) s = .next (s.afterPort dt
      { s.dev.asked dt with pu.malformed := inc16 s.dev.pu.malformed }) := by
  have count : (s.dev.elapse dt).endTake.pu.malformed = s.dev.pu.malformed := endTake_malformed _
  rw [exec_transferCodeInvalid h, transfer_other _ h1 h2 h3, count]
  rfl

end Taken

/-- A transfer begun before the release of reset brings its end alone (R170). -/
theorem exec_transfer_ignored {c : Instr} {s : State} {dt : Time} (hu : s.dev.Up) (hcs : s.dev.pu.csLow = true)
    (hi : isTransfer c = true) (ht : timeOf c = some dt) :
    exec c s = .next { s with dev := { s.dev.elapse dt with pu.csLow := false, pu.sdo := .highZ } } := by
  cases c
  all_goals cases hi
  all_goals cases ht
  all_goals exact congrArg s.answer (onPort_ignored _ (s.dev.elapse dt) hu hcs)

/-- Settles O59: the PUTs that spell a request one by one, then every other transfer. -/
theorem transfersAreReadCountedOrIgnored : Obligations.TransfersAreReadCountedOrIgnored := by
  refine ⟨fun s dt a b c x y extra => ?routed, fun s dt bytes => exec_put_discards, fun s dt c => exec_otherCode,
    fun s dt h => exec_transferCodeInvalid h none, fun s c dt => exec_transfer_ignored, fun bytes => ?form⟩
  case routed =>
    have routed {len type : Byte} (fields : List Byte) (r : Request) :=
      @exec_put_spells s dt len type fields r extra
    exact ⟨routed [a, b, c] (.setup a b c) rfl rfl, routed [a, b, c, x, y] (.submit a b c (x ++ y)) rfl rfl,
      routed [a] (.cancel a) rfl rfl, routed [a, b] (.done a b) rfl rfl, routed [a] (.rate a) rfl rfl,
      routed [] .hold rfl rfl, routed [] .resume rfl rfl, routed [0, a] (.query 0 a) rfl rfl,
      routed [1, a] (.query 1 a) rfl rfl, routed [2, a] (.query 2 a) rfl rfl, routed [3, a] (.query 3 a) rfl rfl,
      routed [4, a] (.query 4 a) rfl rfl, routed [5, a] (.query 5 a) rfl rfl, routed [] .leave rfl rfl,
      routed [] .rejoin rfl rfl⟩
  case form =>
    rw [← not_iff_not, not_not, ← ne_eq, Option.ne_none_iff_exists', ofPut_iff]
    simp only [declared_iff]

end Sys2Proof.ControllerPort
end

section
/-! PROOFS. TAKE and PEEK, the port error flag, and the ATTN_N line (R172 to R174, R178, R182, logs 21, 22, 39). -/

namespace Sys2Proof.ControllerPort

open Sys2Proof.Machine Sys2Proof.Laws Sys2Proof.JoinResync Sys2Proof.RetentionDuty

/-! ### TAKE (R172) -/

section Take

variable {d : Dev} {n : Notice} {rest : List Notice} {clocked through : Nat}

theorem take_empty (clocks : TakeClocks) (h : d.pu.notices = []) :
    d.take clocks = { d with pu.sdo := .shifted [] } := by
  rw [Dev.take, h]
  rfl

theorem take_short (through : Nat) (h : d.pu.notices = n :: rest) (hc : clocked < n.bytes.length) :
    d.take ⟨clocked, through⟩ = { d with pu.sdo := .shifted (n.bytes.take clocked) } := by
  rw [Dev.take, h]
  exact if_neg (not_le.mpr hc)

/-- A TAKE that clocks the head notice out whole shows all of it, and CS_N rises at once or behind later notices. -/
theorem take_whole (through : Nat) (h : d.pu.notices = n :: rest) (hc : n.bytes.length ≤ clocked) :
    d.take ⟨clocked, through⟩ =
      if through = 0 then Dev.prompt { d with pu.sdo := .shifted n.bytes, pu.notices := rest, pu.takeLeft := 0 }
      else { d with pu.sdo := .shifted n.bytes, pu.takeLeft := through } := by
  rw [Dev.take, h]
  dsimp only
  rw [if_pos hc, List.take_of_length_le hc]

theorem exec_take {s : State} {dt : Time} (h : s.dev.TakesTransfers) (clocks : TakeClocks) :
    exec (.take dt clocks) s = .next (s.afterPort dt ((s.dev.elapse dt).endTake.take clocks)) :=
  answer_port s dt (Dev.take clocks) h

theorem exec_peek {s : State} {dt : Time} (h : s.dev.TakesTransfers) (clocked : Nat) :
    exec (.peek dt clocked) s = .next { s with dev := (s.dev.elapse dt).endTake.peek clocked } :=
  congrArg s.answer (onPort_takes (Dev.peek clocked) (s.dev.elapse dt) h)

end Take

/-! ### The two bytes of a PEEK (R173, R187) -/

/-- The presence state stands above the flags. -/
theorem summaryByte_state (code : Byte) {flags : List Bool} (hl : flags.length ≤ 4) :
    ((code <<< 4) ||| flagBits flags).extractLsb' 4 4 = code.extractLsb' 0 4 := by
  refine BitVec.eq_of_getLsbD_eq fun i hi => ?_
  have above : (flagBits flags).getLsbD (4 + i) = false := by
    rw [flagBits_getLsbD _ _ (by omega)]
    exact List.getD_eq_default _ _ (by omega)
  rw [BitVec.getLsbD_extractLsb', BitVec.getLsbD_or, above, BitVec.getLsbD_shiftLeft, BitVec.getLsbD_extractLsb']
  have low : 4 + i < 8 := by omega
  simp [hi, low]

theorem summaryByte_flag (code : Byte) (flags : List Bool) {i : Nat} (hi : i < 4) :
    ((code <<< 4) ||| flagBits flags).getLsbD i = flags.getD i false := by
  rw [BitVec.getLsbD_or, flagBits_getLsbD _ i (by omega), BitVec.getLsbD_shiftLeft]
  simp [hi]

/-! ### The port error flag (R178, R182) -/

theorem push_portError (p : Pu) (n : Notice) (h : ¬ p.notices.length < if p.goReserved then 15 else 16) :
    (p.push n).portError = true := by
  rw [push_drops n h, countTake_portError]

/-- A notice that joins leaves the port error flag as it was. -/
theorem push_portError_joins {p : Pu} (n : Notice) (h : p.notices.length < 15) :
    (p.push n).portError = p.portError := by
  have room : p.notices.length < if p.goReserved then 15 else 16 := by
    split_ifs <;> omega
  rw [push_joins n room, countTake_portError]

/-- The end of a TAKE only makes room. -/
theorem endTake_notices_length (d : Dev) : d.endTake.pu.notices.length ≤ d.pu.notices.length := by
  rw [endTake_pu]
  split_ifs
  · exact le_rfl
  · exact List.length_tail ▸ Nat.sub_le _ _

theorem queryCounters_portError {s : State} {dt : Time} (h : s.dev.TakesTransfers) (hn : s.dev.pu.notices.length < 15) :
    ∃ d, exec (.queryCounters dt 0) s = .next { s with dev := d } ∧ d.pu.portError = false := by
  have room : (s.dev.asked dt).pu.notices.length < 15 := (endTake_notices_length (s.dev.elapse dt)).trans_lt hn
  have answered : exec (.queryCounters dt 0) s = _ := answer_query h 5 0 (part_zero_iff 0)
  rw [if_pos rfl] at answered
  refine ⟨_, answered, ?_⟩
  rw [close_pu, notify_pu]
  exact push_portError_joins _ room

/-- Settles O57: TAKE by what the queue holds and what was clocked out, then PEEK by its bytes, and the port error
flag. -/
theorem takeAndPeekReadTheNotices : Obligations.TakeAndPeekReadTheNotices := by
  refine ⟨fun s dt clocked through h => ?transfers, fun d => ⟨endTake_idle d, endTake_busy d⟩, fun d => ?summary,
    push_portError, fun s dt bytes h hb => ?discarded, fun s dt => queryCounters_portError⟩
  case transfers =>
    intro d
    rw [exec_take h]
    refine ⟨fun he => ?_, fun n rest hq => ⟨fun hc => ?_, fun hc ht => ?_, fun hc ht => ?_⟩, exec_peek h clocked⟩
    · rw [take_empty _ he]
    · rw [take_short through hq hc]
    · rw [take_whole through hq hc, if_pos ht]
    · rw [take_whole through hq hc, if_neg ht]
  case summary =>
    have flag {i : Nat} := @summaryByte_flag d.pc.presence.code
      [d.pu.portError, d.quarantined, d.rs.hold, d.rs.urgency == .urgent] i
    exact ⟨_, rfl, summaryByte_state _ le_rfl, flag (by decide), flag (by decide), flag (by decide), flag (by decide)⟩
  case discarded =>
    refine ⟨_, exec_put_discards h hb, ?_⟩
    rw [close_pu]

/-! ### ATTN_N (R174) -/

section Attention

variable {d : Dev}

theorem attnLow_iff (d : Dev) : d.attnLow = true ↔ d.pu.notices ≠ [] := by
  simp [Dev.attnLow]

theorem attnLow_empty (h : d.pu.notices = []) : d.attnLow = false := by
  rw [Dev.attnLow, h]
  rfl

/-- With an empty queue no TAKE is under way that could end behind the notice that joins. -/
theorem notify_attnLow (n : Notice) (h : d.PortSound) (he : d.pu.notices = []) : (d.notify n).attnLow = true := by
  obtain ⟨-, -, -, reading⟩ := h
  have idle : d.pu.takeLeft = 0 := by
    by_contra ht
    exact reading ht he
  have room : d.pu.notices.length < if d.pu.goReserved then 15 else 16 := by
    rw [he]
    split_ifs <;> decide
  have joins : d.pu.push n = { d.pu with notices := d.pu.notices ++ [n] } :=
    (push_joins n room).trans (countTake_idle idle)
  rw [attnLow_iff, notify_pu, joins, he]
  exact List.cons_ne_nil n []

theorem attnLow_congr {a b : Dev} (h : b.pu.notices = a.pu.notices) : b.attnLow = a.attnLow := by
  rw [Dev.attnLow, Dev.attnLow, h]

/-- A TAKE of the last notice empties the queue; where an earlier TAKE has read that notice, its end does. -/
theorem take_last {n : Notice} {clocked : Nat} (h : d.pu.notices = [n]) (hc : n.bytes.length ≤ clocked) :
    (d.endTake.take ⟨clocked, 0⟩).pu.notices = [] := by
  by_cases ht : d.pu.takeLeft = 0
  · rw [endTake_idle d ht, take_whole 0 h hc]
    rfl
  · have taken : d.endTake.pu.notices = [] := by
      rw [endTake_pu, if_neg ht, endTake_notices, h]
      rfl
    rw [take_empty _ taken]
    exact taken

end Attention

/-- Settles O5: the line by the queue, then what each event leaves in the queue. -/
theorem attentionLineFollowsTheNoticeQueue : Obligations.AttentionLineFollowsTheNoticeQueue := by
  refine ⟨attnLow_iff, fun d n => notify_attnLow n, fun d n => attnLow_congr, fun k => rfl,
    fun k s t dt sid bc cs hs => ⟨_, exec_resetRelease hs, rfl⟩, fun s dt n clocked h hq hc => ?lastTaken⟩
  case lastTaken =>
    refine ⟨_, exec_take h ⟨clocked, 0⟩, attnLow_empty ?_⟩
    rw [close_pu]
    exact take_last (d := s.dev.elapse dt) hq hc

end Sys2Proof.ControllerPort
end

section
/-! PROOFS. LEAVE and REJOIN: the states in which each is taken, and what a resync, a contest and a link fault make of
them (R96, R98, R177, logs 11, 42). -/

namespace Sys2Proof.ControllerPort

open Sys2Proof.Machine Sys2Proof.Laws Sys2Proof.JoinResync

section Requests

variable {d : Dev}

theorem unstageWaiting_eq (d : Dev) : d.unstageWaiting = d.anyUnstaged := by
  unfold Dev.unstageWaiting Dev.anyUnstaged
  cases d.biu.stagedClaim with
  | none => rfl
  | some c => exact unstage_eq c d

/-- LEAVING as a LEAVE request enters it: STATE is judged, and then a STAGED claim is unstaged (R56, R96, log 42). -/
def leavingEntered (d : Dev) : Dev :=
  Dev.anyUnstaged { d with pc.presence := .leaving, pu := d.pu.push (.state .leaving) }

theorem leaveRequest_member (h : d.pc.presence = .member) : d.leaveRequest =
    if (leavingEntered d).drained then { leavingEntered d with biu := (leavingEntered d).biu.placeJoin .leave }
    else leavingEntered d := by
  have entered : (d.enter .leaving).unstageWaiting = leavingEntered d := unstageWaiting_eq _
  rw [Dev.leaveRequest, if_pos h, entered]

theorem leaveRequest_busy (h : d.pc.presence ≠ .member) : d.leaveRequest = d.notify (.refuse .leave none .busy) :=
  if_neg h

theorem rejoinRequest_detached (h : d.pc.presence = .detached) : d.rejoinRequest =
    { d with pc.readyGiven := false, pc.presence := .listening, pc.listenEnds := some (d.now + us 6000),
             pc.beaconEnds := none, pu := d.pu.push (.state .listening) } := if_pos h

theorem rejoinRequest_busy (h : d.pc.presence ≠ .detached) : d.rejoinRequest = d.notify (.refuse .rejoin none .busy) :=
  if_neg h

/-! ### A resync cause in LEAVING starts none (R94, R96) -/

/-- A contest outside MEMBER is counted and alerted, and leads into no other state. -/
theorem contest_presence (x : Station) (h : d.pc.presence ≠ .member) :
    (d.contest x).pc.presence = d.pc.presence := by
  unfold Dev.contest
  dsimp only
  have counted : (if x = d.pc.station then { d with ht.contests := inc16 d.ht.contests }
      else Dev.modRoster x (fun r => { r with contests := inc16 r.contests })
        { d with ht.contests := inc16 d.ht.contests }).pc.presence = d.pc.presence := by
    split_ifs <;> rfl
  rw [notify_pc, counted, if_neg h]
  exact counted

/-! ### A link fault out of MEMBER (R99, R100) -/

/-- A link fault leads into LINK_FAULT, or on into LISTENING where nothing holds it there (log 15). -/
theorem linkFault_presence (c : LinkCause) (h : d.pc.presence.mayLinkFault = true) :
    (d.linkFault c).pc.presence = .linkFault ∨ (d.linkFault c).pc.presence = .listening := by
  have waiting (e : Dev) : e.unstageWaiting.pc = e.pc := by
    unfold Dev.unstageWaiting
    split
    · exact unstage_pc _ e
    · rfl
  unfold Dev.linkFault
  rw [if_pos h]
  dsimp only
  split_ifs
  · exact .inr rfl
  · left
    rw [waiting]
    rfl

end Requests

/-! ### The commands -/

section Commands

variable {s : State} {dt : Time}

theorem exec_leaveRequest (h : s.dev.TakesTransfers) :
    exec (.leaveRequest dt) s = .next (s.afterPort dt (s.dev.asked dt).leaveRequest) :=
  answer_port s dt (fun d => Dev.leaveRequest d.quietSdo) h

theorem exec_rejoin (h : s.dev.TakesTransfers) :
    exec (.rejoin dt) s = .next (s.afterPort dt (s.dev.asked dt).rejoinRequest) :=
  answer_port s dt (fun d => Dev.rejoinRequest d.quietSdo) h

end Commands

/-- Settles O55: each request by the presence state, then what else would move a station that is LEAVING or MEMBER. -/
theorem leaveAndRejoinAreTakenInTheirStates : Obligations.LeaveAndRejoinAreTakenInTheirStates := by
  intro s dt h d leaving
  rw [exec_leaveRequest h, exec_rejoin h]
  refine ⟨fun hp => ?leaves, fun hp => ?staysIn, fun hp => ?rejoins, fun hp => ?staysOut, fun e x hp => ?contest,
    fun e x g f hp => ?beacon, fun e c hp => ⟨rfl, ?linkFault⟩⟩
  case leaves =>
    rw [leaveRequest_member hp]
    rfl
  case staysIn => rw [leaveRequest_busy hp]
  case rejoins => rw [rejoinRequest_detached hp]
  case staysOut => rw [rejoinRequest_busy hp]
  case contest =>
    rw [contest_presence x (by rw [hp]; decide), hp]
  case beacon =>
    refine beaconApplied_rests x g fun hm => ?_
    rw [hp] at hm
    cases hm.1
  case linkFault =>
    rcases linkFault_presence c (by rw [hp]; rfl) with hl | hl
    all_goals
      rw [hl]
      decide

end Sys2Proof.ControllerPort
end

section
/-! PROOFS. The bytes of a frame as its sender builds it, read back by a receiver, and the slots it leaves to the other
stations (R29, R30, R35, R185, R186). -/

namespace Sys2Proof.BudgetBus

open Sys2Proof.Machine Sys2Proof.Laws

/-! ### The header (R185) -/

/-- Header byte 0: the kind in bits 7 to 4, the patience in bits 3 to 1, the fresh flag in bit 0. -/
def headerByte0 (kind : BitVec 4) (patience : BitVec 3) (fresh : Bool) : Byte :=
  (kind.setWidth 8 <<< 4) ||| (patience.setWidth 8 <<< 1) ||| bitAt 0 fresh

/-- Header byte 1: the station in bits 7 to 4, the length in bits 3 to 0. -/
def headerByte1 (st : Station) (len : Nat) : Byte := (st.setWidth 8 <<< 4) ||| (BitVec.ofNat 4 len).setWidth 8

section Header

variable (kind : BitVec 4) (patience : BitVec 3) (fresh : Bool) (st : Station) (len : Nat) (seq : Byte)

theorem headerBytes_eq : headerBytes kind patience fresh st len seq =
    [headerByte0 kind patience fresh, headerByte1 st len, seq] := rfl

theorem bitAt_zero_getLsbD (i : Nat) : (bitAt 0 fresh).getLsbD i = (decide (i = 0) && fresh) := by
  cases fresh <;> simp [bitAt, BitVec.getLsbD_one]

theorem headerByte0_kind : (headerByte0 kind patience fresh).extractLsb' 4 4 = kind := by
  refine BitVec.eq_of_getLsbD_eq fun i hi => ?_
  simp only [headerByte0, BitVec.getLsbD_extractLsb', BitVec.getLsbD_or, bitAt_zero_getLsbD]
  simp [hi, show 4 + i < 8 by omega, show ¬ 4 + i < 1 by omega]

theorem headerByte0_patience : (headerByte0 kind patience fresh).extractLsb' 1 3 = patience := by
  refine BitVec.eq_of_getLsbD_eq fun i hi => ?_
  simp only [headerByte0, BitVec.getLsbD_extractLsb', BitVec.getLsbD_or, bitAt_zero_getLsbD]
  simp [hi, show 1 + i < 8 by omega, show 1 + i < 4 by omega]

theorem headerByte0_fresh : (headerByte0 kind patience fresh).getLsbD 0 = fresh := by
  simp only [headerByte0, BitVec.getLsbD_or, bitAt_zero_getLsbD]
  simp

theorem headerByte1_station : (headerByte1 st len).extractLsb' 4 4 = st := by
  refine BitVec.eq_of_getLsbD_eq fun i hi => ?_
  simp [headerByte1, hi, show 4 + i < 8 by omega]

theorem headerByte1_length (h : len < 16) : ((headerByte1 st len).extractLsb' 0 4).toNat = len := by
  have low : (headerByte1 st len).extractLsb' 0 4 = BitVec.ofNat 4 len := by
    refine BitVec.eq_of_getLsbD_eq fun i hi => ?_
    simp [headerByte1, hi, show i < 8 by omega]
  rw [low, BitVec.toNat_ofNat, Nat.mod_eq_of_lt h]

end Header

/-! ### The payload (R30, R186) -/

theorem word16_hi8_lo8 (w : Word16) : word16 (hi8 w) (lo8 w) = w :=
  (BitVec.extractLsb'_append_extractLsb'_eq_extractLsb' (w := 16) rfl).trans BitVec.extractLsb'_eq_self

/-- The kind and the payload of a content spell that content. -/
theorem ofPayload_payloadOf (b : Body) : Body.ofPayload (kindOf b) (payloadOf b) = some b := by
  cases b with
  | claim urgent => cases urgent <;> rfl
  | intent a t => exact congrArg (fun t' => some (Body.intent a t')) (word16_hi8_lo8 t)
  | summary f t n =>
    exact congrArg₂ (fun t' n' => some (Body.summary f t' n')) (word16_hi8_lo8 t) (word16_hi8_lo8 n)
  | beacon d f => exact congrArg (fun d' => some (Body.beacon d' f)) (word16_hi8_lo8 d)
  | _ => rfl

/-- No payload comes near the limit of eight bytes. -/
theorem payloadOf_length_le (b : Body) : (payloadOf b).length ≤ 6 := by
  cases b
  all_goals simp [payloadOf, be16]

/-! ### The CRC (R29) -/

theorem byteBits_eq (b : Byte) : byteBits b = (List.range 8).map (fun i => b.getLsbD (7 - i)) := rfl

/-- A further byte goes into the CRC bit by bit, the most significant first. -/
theorem crc8_append_byte (bs : List Byte) (b : Byte) : crc8 (bs ++ [b]) =
    (List.range 8).foldl (fun r i => crc8Bit r (b.getLsbD (7 - i))) (crc8 bs) := by
  rw [crc8, List.flatMap_append, List.foldl_append, List.flatMap_singleton, byteBits_eq, List.foldl_map, ← crc8]

/-! ### The frame read back (R35) -/

section ReadBack

variable {raw : RawFrame} {patience : BitVec 3} {fresh : Bool} {st : Station} {seq : Byte} {b : Body}

/-- Bytes that stand on the line as a frame are its header, its payload and its CRC, each in its place. -/
theorem raw_of_frameBytes
    (h : [raw.byte0, raw.byte1, raw.byte2] ++ raw.payload ++ [raw.crc] = frameBytes patience fresh st seq b) :
    raw.byte0 = headerByte0 (kindOf b) patience fresh ∧ raw.byte1 = headerByte1 st (payloadOf b).length ∧
      raw.byte2 = seq ∧ raw.payload = payloadOf b ∧
      crc8 ([raw.byte0, raw.byte1, raw.byte2] ++ raw.payload) = raw.crc := by
  obtain ⟨hfront, hcrc⟩ := List.append_inj' h rfl
  have crc : crc8 ([raw.byte0, raw.byte1, raw.byte2] ++ raw.payload) = raw.crc := by
    rw [hfront]
    exact (List.singleton_inj.mp hcrc).symm
  obtain ⟨hhead, hpay⟩ := List.append_inj hfront rfl
  rw [headerBytes_eq] at hhead
  injection hhead with h0 hhead
  injection hhead with h1 hhead
  exact ⟨h0, h1, List.singleton_inj.mp hhead, hpay, crc⟩

/-- What checks 1 to 4 of R35 let pass is judged by the cost of its claim alone. -/
theorem read_of_checked (hsync : raw.syncOk = true) (hlen : raw.length ≤ 8) (hpay : raw.payload.length = raw.length)
    (hcrc : crc8 ([raw.byte0, raw.byte1, raw.byte2] ++ raw.payload) = raw.crc)
    (hb : Body.ofPayload (raw.byte0.extractLsb' 4 4) raw.payload = some b) :
    raw.read = if b.costOk then
        some ({ station := raw.byte1.extractLsb' 4 4, fresh := raw.byte0.getLsbD 0, seq := raw.byte2 }, b)
      else none := by
  rw [RawFrame.read, hb]
  exact if_pos (by rw [hcrc, hsync, hpay]; simp [hlen])

/-- A frame as built passes checks 1 to 4, and its head and content are read as they were sent. -/
theorem read_of_frameBytes (hsync : raw.syncOk = true)
    (h : [raw.byte0, raw.byte1, raw.byte2] ++ raw.payload ++ [raw.crc] = frameBytes patience fresh st seq b) :
    raw.read = if b.costOk then some ({ station := st, fresh := fresh, seq := seq }, b) else none := by
  obtain ⟨h0, h1, h2, hpay, hcrc⟩ := raw_of_frameBytes h
  have short := payloadOf_length_le b
  have len : raw.length = (payloadOf b).length := by
    rw [RawFrame.length, h1, headerByte1_length st _ (by omega)]
  have content : Body.ofPayload (raw.byte0.extractLsb' 4 4) raw.payload = some b := by
    rw [h0, headerByte0_kind, hpay, ofPayload_payloadOf]
  rw [read_of_checked hsync (by omega) (by rw [hpay, len]) hcrc content, h0, h1, h2, headerByte0_fresh,
    headerByte1_station]

end ReadBack

/-! ### The acknowledgement slots (R29, R185) -/

theorem inMask_maskBit (own x : Station) : inMask (maskBit own) x = true ↔ x = own := by
  have hx : x.toNat < 16 := x.isLt
  rw [inMask, maskBit, BitVec.getLsbD_shiftLeft, BitVec.getLsbD_one, ← BitVec.toNat_inj]
  simp [hx]
  omega

/-- The slots that the two bytes of a set drive dominant are those of its stations, and no others. -/
theorem inMask_slotBytes (m : BitVec 16) : ∃ a b : Byte, slotBytes m = [a, b] ∧
    ∀ x : Station, inMask (ackSlots a b) x = inMask m x :=
  ⟨_, _, rfl, fun x => by rw [ackSlots_slotBytes]⟩

/-- The set of no station leaves every slot recessive. -/
theorem slotBytes_zero : slotBytes 0 = [0xFF, 0xFF] := by decide

/-- Settles O30: what its sender builds is read back, and where each part of it stands on the line. -/
theorem frameReadsBackAsSent : Obligations.FrameReadsBackAsSent := by
  refine ⟨fun patience fresh st seq b raw hsync h => ?readBack, fun patience fresh st seq b => ?layout,
    fun bs b => ⟨rfl, crc8_append_byte bs b⟩, fun own => ?slots⟩
  case readBack =>
    rw [read_of_frameBytes hsync h]
    exact ⟨fun hc => if_pos hc, fun hc => if_neg (Bool.eq_false_iff.mp hc)⟩
  case layout =>
    have short := payloadOf_length_le b
    refine ⟨headerByte0 (kindOf b) patience fresh, headerByte1 st (payloadOf b).length, rfl, ?_, headerByte0_kind ..,
      headerByte0_patience .., headerByte0_fresh .., headerByte1_station .., headerByte1_length st _ (by omega)⟩
    rw [drivenBytes, slotBytes_zero]
  case slots =>
    obtain ⟨a, b, hbytes, hslots⟩ := inMask_slotBytes (maskBit own)
    exact ⟨a, b, hbytes, fun x => by rw [hslots, inMask_maskBit]⟩

end Sys2Proof.BudgetBus
end

section
/-! PROOFS. The queue of commands: what a step takes from it (log 3). -/

namespace Sys2Proof.CommandQueue

open Sys2Proof.Machine

/-- The command at the front is taken, with the rest of the queue left for the steps that follow. -/
@[simp] theorem step_of_waiting (d : Dev) (c : Instr) (rest : List Instr) :
    step { dev := d, pending := c :: rest } = exec c { dev := d, pending := rest } := rfl

/-- A part that no command waits for idles (log 3). -/
@[simp] theorem step_of_idle (d : Dev) : step { dev := d, pending := [] } = .next { dev := d, pending := [] } := rfl

/-- Settles O1, by whether a command waits. -/
theorem stepTakesTheFrontCommand : Obligations.StepTakesTheFrontCommand := by
  rintro ⟨d, queue⟩
  refine ⟨fun c rest h => ?waiting, fun h => ?idle⟩
  case waiting =>
    obtain rfl : queue = c :: rest := h
    exact step_of_waiting d c rest
  case idle =>
    obtain rfl : queue = [] := h
    exact step_of_idle d

end Sys2Proof.CommandQueue
end

section
/-! PROOFS. The places of the own holdings: where the invariant says too little to be kept (R42, R44, R71, R91,
R102). -/

namespace Sys2Proof.OwnPlaces

open Sys2Proof.Machine Sys2Proof.Laws Sys2Proof.JoinResync

/-! ### A collect window that runs in CONFIG_FAULT

`Dev.PlacesSound` lets an EXTEND in hand stand for an own holding whose lease has stopped, with no RELEASE placed, while
the station is in CONFIG_FAULT. It does not say that no timer of the presence controller runs there (R102), so the end
of a collect window may lead out of CONFIG_FAULT and take that ground away. -/

/-- An own holding that awaits the end of its RELEASE: its lease has stopped. -/
def stoppedHolding : Holding :=
  { station := 0, handle := 3, cls := .rfb, target := { region := 0, group := 0 }, extensions := 0,
    holder := .own { goSent := true, leaseEnds := none, period := 2, done := some .ok, tag := none } }

/-- The EXTEND of that holding, its send under way. -/
def extendInHand : InHand :=
  { ref := .extend 3, body := .extend 3 1, seq := 0, patience := 7, fresh := true, sending := true, sends := 0,
    acked := 0, delivered := false }

/-- Station 0 in CONFIG_FAULT, the EXTEND left in the outbox to the end of its transmission, with a collect window that
still runs. -/
def faultedInWindow : Dev :=
  { Dev.held .powerOn with
    pc.presence := .configFault
    pc.window := some { ends := 0, tallies := Vector.replicate 16 Tally.fresh }
    ht.holdings := [stoppedHolding]
    biu.inHand := some extendInHand
    biu.outbox.extend := [{ handle := 3, slot := { content := some { body := 1, seq := some 0 }, next := none } }] }

theorem faultedInWindow_inHand {f : InHand} (h : faultedInWindow.biu.inHand = some f) : f = extendInHand :=
  (Option.some.inj h).symm

theorem faultedInWindow_table : faultedInWindow.TableSound := by
  refine ⟨List.pairwise_singleton _ _, by decide, fun f hf => ?_, by decide, by decide⟩
  rw [faultedInWindow_inHand hf]
  exact ⟨by decide, by decide⟩

theorem faultedInWindow_releases : faultedInWindow.ReleasePlaces := by
  refine ⟨by decide, by decide, fun f h hf hr => ?_⟩
  rw [faultedInWindow_inHand hf] at hr
  cases hr

theorem faultedInWindow_extends : faultedInWindow.ExtendPlaces :=
  ⟨by decide, fun e he => by
    rw [List.mem_singleton.mp he]
    exact ⟨stoppedHolding, by decide, rfl, .inr ⟨rfl, rfl, .inr rfl⟩⟩⟩

/-- Everything that the invariant asks holds of that part. -/
theorem faultedInWindow_sound : faultedInWindow.PlacesSound := by
  refine ⟨faultedInWindow_table, by decide, by decide, by decide, by decide, by decide, fun f hf => ?_,
    faultedInWindow_releases, faultedInWindow_extends⟩
  rw [faultedInWindow_inHand hf]
  exact ⟨nofun, nofun⟩

/-- The part that the end of the window leaves, as a MEMBER. -/
def leftFault : Dev := Dev.close (faultedInWindow.elapseTo 0) (faultedInWindow.elapseTo 0).enterMember

theorem step_leavesFault : step ⟨faultedInWindow, [.collectTimerExpiry]⟩ = .next ⟨leftFault, []⟩ :=
  exec_collectTimerExpiry (s := ⟨faultedInWindow, []⟩) (by decide) rfl rfl

/-- The EXTEND stands as it stood, for a holding without a lease or a RELEASE, but no longer in CONFIG_FAULT. -/
theorem leftFault_extends : ¬ leftFault.ExtendPlaces := by
  rintro ⟨-, places⟩
  obtain ⟨x, hx, -, hleased | ⟨-, -, hrelease | hfault⟩⟩ := places _ (List.mem_singleton.mpr rfl)
  · have hnone : leftFault.leased = [] := by decide
    rw [hnone] at hleased
    cases hleased
  · exact absurd hrelease (by decide)
  · exact absurd hfault (by decide)

/-- Refutes O10: nothing in the invariant keeps a collect window from running in CONFIG_FAULT, and its end leads to
MEMBER while an EXTEND is in hand that CONFIG_FAULT alone lets stand. -/
theorem not_ownPlacesInvariantKept : ¬ Obligations.OwnPlacesInvariantKept := by
  rintro ⟨kept, -⟩
  obtain ⟨-, -, -, -, -, -, -, -, extends'⟩ := kept _ _ faultedInWindow_sound step_leavesFault
  exact leftFault_extends extends'

end Sys2Proof.OwnPlaces
end

section
/-! PROOFS. The records of the holdings list: where a record goes in, which one a full list gives up, and which stay
(R1, R2, R15, R16). -/

namespace Sys2Proof.HoldingsList

open Sys2Proof.Machine Sys2Proof.Laws

/-! ### Keys (R2) -/

/-- A key names one station and one handle. -/
theorem key_eq_iff (x y : Holding) : x.key = y.key ↔ x.station = y.station ∧ x.handle = y.handle := by
  have hx := x.handle.isLt
  have hy := y.handle.isLt
  rw [← BitVec.toNat_inj, ← BitVec.toNat_inj]
  unfold Holding.key
  omega

theorem isOwn_iff (x : Holding) : x.isOwn = true ↔ x.expiry = none := by
  unfold Holding.isOwn Holding.part Holding.expiry
  cases x.holder <;> simp

theorem expiry_peer {x : Holding} {b : Int} {e : Time} (h : x.holder = .peer b e) : x.expiry = some e := by
  simp [Holding.expiry, h]

theorem exists_peer {x : Holding} {e : Time} (h : x.expiry = some e) : ∃ b, x.holder = .peer b e := by
  unfold Holding.expiry at h
  split at h
  · cases h
  next b e' hx => cases h; exact ⟨b, hx⟩

/-! ### A record joins the list (R1, R2, R15) -/

/-- What an insertion leaves: the new record, and every other but the one under its key. -/
theorem mem_insertHolding_iff (h : Holding) {l : List Holding} (hl : Canonical l) (x : Holding) :
    x ∈ insertHolding h l ↔ x = h ∨ (x ∈ l ∧ ¬ (x.station = h.station ∧ x.handle = h.handle)) := by
  simp only [← key_eq_iff]
  induction l with
  | nil => simp [insertHolding]
  | cons y ys ih =>
    obtain ⟨hy, hys⟩ := List.pairwise_cons.mp hl
    unfold insertHolding
    split_ifs with hlt heq
    · have hne (z : Holding) (hz : z ∈ y :: ys) : z.key ≠ h.key := by
        rcases List.mem_cons.mp hz with rfl | hz
        · omega
        · have := hy z hz; omega
      simp only [List.mem_cons (b := h)]
      exact or_congr_right ⟨fun hz => ⟨hz, hne x hz⟩, And.left⟩
    · have hne (z : Holding) (hz : z ∈ ys) : z.key ≠ h.key := by have := hy z hz; omega
      simp only [List.mem_cons]
      constructor
      · rintro (rfl | hz)
        · exact .inl rfl
        · exact .inr ⟨.inr hz, hne x hz⟩
      · rintro (rfl | ⟨rfl | hz, hk⟩)
        · exact .inl rfl
        · exact absurd heq.symm hk
        · exact .inr hz
    · simp only [List.mem_cons, ih hys]
      constructor
      · rintro (rfl | rfl | ⟨hz, hk⟩)
        · exact .inr ⟨.inl rfl, Ne.symm heq⟩
        · exact .inl rfl
        · exact .inr ⟨.inr hz, hk⟩
      · rintro (rfl | ⟨rfl | hz, hk⟩)
        · exact .inr (.inl rfl)
        · exact .inl rfl
        · exact .inr (.inr ⟨hz, hk⟩)

/-! ### The peer record that expires first (R16) -/

/-- The peer record that expires sooner, the one found first among equals. -/
def sooner (best : Option Holding) (x : Holding) : Option Holding :=
  match x.expiry with
  | none => best
  | some e =>
    match best with
    | none => some x
    | some b => if e < b.expiry.getD 0 then some x else some b

theorem earliestPeer_eq (l : List Holding) : earliestPeer l = l.foldl sooner none := rfl

theorem sooner_own {best : Option Holding} {x : Holding} (h : x.expiry = none) : sooner best x = best := by
  simp [sooner, h]

theorem sooner_none {x : Holding} {e : Time} (h : x.expiry = some e) : sooner none x = some x := by
  simp [sooner, h]

theorem sooner_some {b x : Holding} {e e' : Time} (hb : b.expiry = some e) (hx : x.expiry = some e') :
    sooner (some b) x = if e' < e then some x else some b := by
  simp [sooner, hb, hx]

/-- What is found is what there was before, or a peer record of the list. -/
theorem foldl_sooner_some {l : List Holding} {best : Option Holding} {p : Holding} (h : l.foldl sooner best = some p) :
    best = some p ∨ (p ∈ l ∧ p.isOwn = false) := by
  induction l generalizing best with
  | nil => exact .inl h
  | cons x xs ih =>
    obtain hbest | ⟨hmem, hown⟩ := ih h
    · cases hx : x.expiry with
      | none => rw [sooner_own hx] at hbest; exact .inl hbest
      | some e =>
        have hpeer : x.isOwn = false := by
          rw [← Bool.not_eq_true, isOwn_iff, hx]; nofun
        unfold sooner at hbest
        rw [hx] at hbest
        dsimp only at hbest
        split at hbest
        · cases hbest; exact .inr ⟨List.mem_cons_self, hpeer⟩
        · split_ifs at hbest
          · cases hbest; exact .inr ⟨List.mem_cons_self, hpeer⟩
          · exact .inl hbest
    · exact .inr ⟨List.mem_cons_of_mem x hmem, hown⟩

/-- Something is found where there was something, or where the list holds a peer record. -/
theorem foldl_sooner_none {l : List Holding} {best : Option Holding} (h : l.foldl sooner best = none) :
    best = none ∧ ∀ x ∈ l, x.isOwn = true := by
  induction l generalizing best with
  | nil => exact ⟨h, nofun⟩
  | cons x xs ih =>
    obtain ⟨hbest, hxs⟩ := ih h
    cases hx : x.expiry with
    | none =>
      rw [sooner_own hx] at hbest
      exact ⟨hbest, List.forall_mem_cons.mpr ⟨(isOwn_iff x).mpr hx, hxs⟩⟩
    | some e =>
      cases best with
      | none => rw [sooner_none hx] at hbest; cases hbest
      | some b =>
        unfold sooner at hbest
        rw [hx] at hbest
        dsimp only at hbest
        split_ifs at hbest

theorem earliestPeer_some {l : List Holding} {p : Holding} (h : earliestPeer l = some p) : p ∈ l ∧ p.isOwn = false :=
  (foldl_sooner_some h).resolve_left nofun

theorem earliestPeer_none {l : List Holding} (h : earliestPeer l = none) : ∀ x ∈ l, x.isOwn = true :=
  (foldl_sooner_none h).2

/-- Records that expire no sooner do not take the place of the one found. -/
theorem foldl_sooner_keeps {l : List Holding} {p : Holding} {e : Time} (hp : p.expiry = some e)
    (hl : ∀ x ∈ l, ∀ e', x.expiry = some e' → e ≤ e') : l.foldl sooner (some p) = some p := by
  induction l with
  | nil => rfl
  | cons x xs ih =>
    obtain ⟨hx, hxs⟩ := List.forall_mem_cons.mp hl
    have hkeep : sooner (some p) x = some p := by
      cases he : x.expiry with
      | none => exact sooner_own he
      | some e' => rw [sooner_some hp he, if_neg (Nat.not_lt.mpr (hx e' he))]
    rw [List.foldl_cons, hkeep]
    exact ih hxs

/-- A record that expires before every peer record met so far takes the place of what was found. -/
theorem sooner_takes {l : List Holding} {p : Holding} {e : Time} (hp : p.expiry = some e)
    (hl : ∀ x ∈ l, ∀ e', x.expiry = some e' → e < e') : sooner (l.foldl sooner none) p = some p := by
  cases hfound : l.foldl sooner none with
  | none => exact sooner_none hp
  | some q =>
    obtain ⟨hq, hown⟩ := (foldl_sooner_some hfound).resolve_left nofun
    cases hx : q.expiry with
    | none => rw [(isOwn_iff q).mpr hx] at hown; cases hown
    | some e' => rw [sooner_some hx hp, if_pos (hl q hq e' hx)]

theorem earliestPeer_split {pre post : List Holding} {p : Holding} {e : Time} (hp : p.expiry = some e)
    (hpre : ∀ x ∈ pre, ∀ e', x.expiry = some e' → e < e') (hpost : ∀ x ∈ post, ∀ e', x.expiry = some e' → e ≤ e') :
    earliestPeer (pre ++ p :: post) = some p := by
  rw [earliestPeer_eq, List.foldl_append, List.foldl_cons, sooner_takes hp hpre]
  exact foldl_sooner_keeps hp hpost

/-! ### Room for the own record (R16) -/

theorem makeRoom_short {l : List Holding} (h : l.length < 32) : makeRoom l = l := if_pos h

theorem makeRoom_own {l : List Holding} (h : ∀ x ∈ l, x.isOwn = true) : makeRoom l = l := by
  unfold makeRoom
  split_ifs
  · rfl
  · split
    next p hp =>
      obtain ⟨hmem, hown⟩ := earliestPeer_some hp
      rw [h p hmem] at hown
      cases hown
    · rfl

theorem makeRoom_sublist (l : List Holding) : (makeRoom l).Sublist l := by
  unfold makeRoom dropHolding
  split_ifs
  · exact List.Sublist.refl l
  · split
    · exact List.filter_sublist
    · exact List.Sublist.refl l

theorem dropHolding_length_lt {x : Station} {k : Byte} {l : List Holding} {p : Holding} (hp : p ∈ l)
    (hx : p.station = x) (hk : p.handle = k) : (dropHolding x k l).length < l.length := by
  refine List.length_filter_lt_length_iff_exists.mpr ⟨p, hp, ?_⟩
  simp [hx, hk]

/-- A list of at most 32 records that are not all own has room for one more. -/
theorem makeRoom_length {l : List Holding} (h : l.length ≤ 32) (hown : l.countP Holding.isOwn < 32) :
    (makeRoom l).length < 32 := by
  unfold makeRoom
  split_ifs with hshort
  · exact hshort
  · have hfull : l.length = 32 := by
      have : ¬ l.length < 32 := hshort
      omega
    split
    next p hp => exact hfull ▸ dropHolding_length_lt (earliestPeer_some hp).1 rfl rfl
    next hnone =>
      rw [List.countP_eq_length.mpr (earliestPeer_none hnone)] at hown
      omega

/-- The list but for one record of it: no other stands under that key. -/
theorem dropHolding_split {pre post : List Holding} {p : Holding} (hl : Canonical (pre ++ p :: post)) :
    dropHolding p.station p.handle (pre ++ p :: post) = pre ++ post := by
  obtain ⟨-, hpost, hcross⟩ := List.pairwise_append.mp hl
  have hkeep {l : List Holding} (hne : ∀ x ∈ l, x.key ≠ p.key) : dropHolding p.station p.handle l = l := by
    refine List.filter_eq_self.mpr fun x hx => ?_
    simpa [key_eq_iff, imp_iff_not_or] using hne x hx
  have hpre := hkeep fun x hx => (hcross x hx p List.mem_cons_self).ne
  have hpost := hkeep fun x hx => ((List.pairwise_cons.mp hpost).1 x hx).ne'
  unfold dropHolding at *
  rw [List.filter_append, List.filter_cons, hpre, hpost]
  simp

theorem makeRoom_split {pre post : List Holding} {p : Holding} {e : Time} (hfull : 32 ≤ (pre ++ p :: post).length)
    (hl : Canonical (pre ++ p :: post)) (hp : p.expiry = some e)
    (hpre : ∀ x ∈ pre, ∀ e', x.expiry = some e' → e < e') (hpost : ∀ x ∈ post, ∀ e', x.expiry = some e' → e ≤ e') :
    makeRoom (pre ++ p :: post) = pre ++ post := by
  unfold makeRoom
  rw [if_neg (show ¬ (pre ++ p :: post).length < Config.holdingsCap from Nat.not_lt.mpr hfull),
    earliestPeer_split hp hpre hpost]
  exact dropHolding_split hl

end Sys2Proof.HoldingsList
end

section
/-! PROOFS. What every operation keeps, said once for each: the counters and lists in their ranges, the holding table in
order, the straps as sampled and the SETUP lock (R1 to R3, R32, R34, R35, R41, R57, R81, R94, R123, R153, R154,
R178). -/

namespace Sys2Proof.StandingBounds

open Sys2Proof.Machine Sys2Proof.Laws Sys2Proof.ClaimLifeCycle Sys2Proof.JoinResync

/-! ### The ranges, block by block -/

/-- The counts of the bus interface unit in range (R32, R34, R35, R41). -/
def BiuInRange (b : Biu) : Prop :=
  b.losses ≤ 255 ∧ b.consecErrors ≤ 15 ∧ b.totalErrors ≤ 65535 ∧ b.undelivered ≤ 65535 ∧ b.rxDiscards ≤ 65535

/-- The contest count and the surge history in range (R3, R22). -/
def HtInRange (h : Ht) : Prop := h.contests ≤ 65535 ∧ h.surge.length ≤ 16

/-- The tallies of a collect window in range (R81). -/
def WindowInRange (w : Window) : Prop := ∀ x, (w.tallyAt x).counted ≤ 2 ∧ (w.tallyAt x).announced ≤ 3

/-- The resync count, the roster's counts and an open window's tallies in range (R81, R94). -/
def PcInRange (p : Pc) : Prop :=
  p.resyncs ≤ 65535 ∧ (∀ x, (p.rosterAt x).Sound) ∧ ∀ w, p.window = some w → WindowInRange w

/-- The lapse counts in range (R104). -/
def RsInRange (r : Rs) : Prop := ∀ n, (r.regionAt n).lapses ≤ 65535

/-- The local queue in range, each tag once (R153, R154, R159). -/
def QueueInRange (q : List Entry) : Prop := q.length ≤ 8 ∧ (q.map Entry.tag).Nodup ∧ ∀ e ∈ q, e.bypass ≤ 4

/-- The counts of the port unit in range (R171, R178). -/
def PuInRange (p : Pu) : Prop := p.lost ≤ 65535 ∧ p.malformed ≤ 65535

theorem bounded_iff (d : Dev) : d.Bounded ↔ BiuInRange d.biu ∧ HtInRange d.ht ∧ PcInRange d.pc ∧ RsInRange d.rs ∧
    QueueInRange d.oqs.queue ∧ PuInRange d.pu := by
  unfold Dev.Bounded BiuInRange HtInRange PcInRange RsInRange QueueInRange PuInRange WindowInRange
  tauto

/-- An operation leaves `b` of `a`: what was in range stays in range, a holding table in order stays in order, the
straps stand, and the SETUP lock stays set. -/
structure Stays (a b : Dev) : Prop where
  biu : BiuInRange a.biu → BiuInRange b.biu
  ht : HtInRange a.ht → HtInRange b.ht
  pc : PcInRange a.pc → PcInRange b.pc
  rs : RsInRange a.rs → RsInRange b.rs
  queue : QueueInRange a.oqs.queue → QueueInRange b.oqs.queue
  pu : PuInRange a.pu → PuInRange b.pu
  table : a.TableSound → b.TableSound
  station : b.pc.station = a.pc.station
  budget : b.pc.budget = a.pc.budget
  lock : a.pu.setupLock = true → b.pu.setupLock = true

theorem Stays.refl (d : Dev) : Stays d d := ⟨id, id, id, id, id, id, id, rfl, rfl, id⟩

theorem Stays.trans {a b c : Dev} (h : Stays a b) (k : Stays b c) : Stays a c where
  biu := k.biu ∘ h.biu
  ht := k.ht ∘ h.ht
  pc := k.pc ∘ h.pc
  rs := k.rs ∘ h.rs
  queue := k.queue ∘ h.queue
  pu := k.pu ∘ h.pu
  table := k.table ∘ h.table
  station := k.station.trans h.station
  budget := k.budget.trans h.budget
  lock := k.lock ∘ h.lock

/-- The later part first, where it says what stands between. -/
theorem Stays.after {a b c : Dev} (k : Stays b c) (h : Stays a b) : Stays a c := h.trans k

theorem Stays.bounded {a b : Dev} (h : Stays a b) (ha : a.Bounded) : b.Bounded := by
  obtain ⟨hbiu, hht, hpc, hrs, hqueue, hpu⟩ := (bounded_iff a).mp ha
  exact (bounded_iff b).mpr ⟨h.biu hbiu, h.ht hht, h.pc hpc, h.rs hrs, h.queue hqueue, h.pu hpu⟩

/-! ### The holding table in order -/

/-- The records and the calibration queue, as far as their order goes (R1, R2, R5). -/
structure ViewOrdered (h : Ht) : Prop where
  canonical : Canonical h.holdings
  room : h.holdings.length ≤ 32
  cal : (h.calQueue.map Prod.fst).Nodup

/-- How many own records a list holds. -/
def ownCount (l : List Holding) : Nat := l.countP Holding.isOwn

theorem tableSound_iff (d : Dev) : d.TableSound ↔ ViewOrdered d.ht ∧ (∀ f, d.biu.inHand = some f → f.Sound) ∧
    ownCount d.ht.holdings + (if d.biu.openClaim.isSome then 1 else 0) ≤ 2 := by
  unfold Dev.TableSound ownCount
  rw [ownHoldings_length]
  constructor
  · rintro ⟨h1, h2, h3, h4, h5⟩; exact ⟨⟨h1, h2, h5⟩, h3, h4⟩
  · rintro ⟨⟨h1, h2, h5⟩, h3, h4⟩; exact ⟨h1, h2, h3, h4, h5⟩

/-- A claim stands open unless the one in hand has been delivered. -/
theorem openClaim_isSome (b : Biu) : b.openClaim.isSome = true ↔
    b.outbox.claim.isSome = true ∧ ∀ f, b.inHand = some f → f.ref = .claim → f.delivered = false := by
  unfold Biu.openClaim Biu.inHandIs Biu.claimSending
  cases b.inHand <;> aesop

/-- What a change of the table and of the bus interface unit must keep for the table to stay in order. -/
theorem table_of {a b : Dev} (hview : ViewOrdered a.ht → ViewOrdered b.ht)
    (hown : ownCount b.ht.holdings ≤ ownCount a.ht.holdings) (hframe : ∀ f, b.biu.inHand = some f → f.Sound)
    (hclaim : b.biu.openClaim.isSome = true → a.biu.openClaim.isSome = true) (h : a.TableSound) : b.TableSound := by
  rw [tableSound_iff] at h ⊢
  obtain ⟨view, -, count⟩ := h
  refine ⟨hview view, hframe, ?_⟩
  by_cases hb : b.biu.openClaim.isSome = true
  · rw [if_pos (hclaim hb)] at count
    rw [if_pos hb]
    omega
  · rw [if_neg hb]
    split_ifs at count <;> omega

/-- The frame in hand and an open CLAIM slot, as far as the table goes. -/
theorem table_of_claim {a b : Dev} (hht : b.ht = a.ht) (hi : b.biu.inHand = a.biu.inHand)
    (hc : b.biu.outbox.claim.isSome = true → a.biu.outbox.claim.isSome = true) (h : a.TableSound) : b.TableSound := by
  refine table_of (by rw [hht]; exact id) (by rw [hht]) (fun f hf => ?_) (fun hb => ?_) h
  · exact h.2.2.1 f (hi ▸ hf)
  · rw [openClaim_isSome, hi] at hb
    rw [openClaim_isSome]
    exact hb.imp hc id

/-- The records and the calibration queue alone. -/
theorem table_of_view {a b : Dev} (hbiu : b.biu = a.biu) (hview : ViewOrdered a.ht → ViewOrdered b.ht)
    (hown : ownCount b.ht.holdings ≤ ownCount a.ht.holdings) (h : a.TableSound) : b.TableSound :=
  table_of hview hown (hbiu ▸ h.2.2.1) (by rw [hbiu]; exact id) h

/-! ### Counters, notices and the local queue -/

variable (d : Dev)

theorem prompt_stays : Stays d d.prompt := { Stays.refl _ with }

theorem judge_inRange (p : Pu) (n : Notice) (h : PuInRange p) : PuInRange (p.judge n) := by
  unfold Pu.judge
  by_cases hroom : p.notices.length < Config.noticeCap - (if p.goReserved then 1 else 0)
  · rw [if_pos hroom]; exact h
  · rw [if_neg hroom]; exact ⟨inc16_le _ h.1, h.2⟩

theorem push_inRange (p : Pu) (n : Notice) (h : PuInRange p) : PuInRange (p.push n) := by
  unfold Pu.push Pu.countTake Pu.endTake
  split_ifs <;> exact judge_inRange p n h

theorem notify_stays (n : Notice) : Stays d (d.notify n) :=
  { Stays.refl _ with pu := push_inRange d.pu n, lock := by simp }

theorem notifyGo_stays (n : Notice) : Stays d (d.notifyGo n) :=
  { Stays.refl _ with pu := push_inRange { d.pu with goReserved := false } n, lock := by simp }

theorem refuse_stays (q : ReqType) (k : Option Byte) (r : Reason) : Stays d (d.refuse q k r) := notify_stays d _

theorem filter_inRange (p : Entry → Bool) {q : List Entry} (h : QueueInRange q) : QueueInRange (q.filter p) := by
  obtain ⟨hlen, htags, hbypass⟩ := h
  exact ⟨(List.length_filter_le p q).trans hlen, (List.filter_sublist.map _).nodup htags,
    fun e he => hbypass e (List.mem_of_mem_filter he)⟩

theorem map_inRange {f : Entry → Entry} (hf : ∀ e, (f e).tag = e.tag ∧ (e.bypass ≤ 4 → (f e).bypass ≤ 4))
    {q : List Entry} (h : QueueInRange q) : QueueInRange (q.map f) := by
  obtain ⟨hlen, htags, hbypass⟩ := h
  refine ⟨by rwa [List.length_map], ?_, fun e he => ?_⟩
  · rw [List.map_map]
    exact (List.map_congr_left fun e _ => (hf e).1 : q.map (Entry.tag ∘ f) = q.map Entry.tag) ▸ htags
  · obtain ⟨x, hx, rfl⟩ := List.mem_map.mp he
    exact (hf x).2 (hbypass x hx)

/-- Only tags and bypass counts matter to the local queue's range. -/
theorem queue_of_map {q r : List Entry} (h : r.map (fun e => (e.tag, e.bypass)) = q.map (fun e => (e.tag, e.bypass)))
    (hq : QueueInRange q) : QueueInRange r := by
  obtain ⟨hlen, htags, hbypass⟩ := hq
  have hl : r.length = q.length := by simpa using congrArg List.length h
  have ht : r.map Entry.tag = q.map Entry.tag := by
    simpa only [List.map_map, Function.comp_def] using congrArg (List.map Prod.fst) h
  have hb : r.map Entry.bypass = q.map Entry.bypass := by
    simpa only [List.map_map, Function.comp_def] using congrArg (List.map Prod.snd) h
  refine ⟨hl ▸ hlen, ht ▸ htags, fun e he => ?_⟩
  have hm : e.bypass ∈ q.map Entry.bypass := hb ▸ List.mem_map_of_mem he
  obtain ⟨x, hx, hxe⟩ := List.mem_map.mp hm
  exact hxe ▸ hbypass x hx

theorem flagFirst_inRange (p : Entry → Bool) {q : List Entry} (h : QueueInRange q) : QueueInRange (flagFirst p q) := by
  refine queue_of_map ?_ h
  induction q with
  | nil => rfl
  | cons e es ih =>
    obtain ⟨hlen, htags, hbypass⟩ := h
    unfold flagFirst
    split_ifs
    · rfl
    · have htail : QueueInRange es :=
        ⟨by simp only [List.length_cons] at hlen; omega, (List.nodup_cons.mp htags).2,
          fun x hx => hbypass x (List.mem_cons_of_mem e hx)⟩
      simp only [List.map_cons, ih htail]

theorem modEntry_stays (t : Byte) {f : Entry → Entry} (hf : ∀ e, (f e).tag = e.tag ∧ (f e).bypass = e.bypass) :
    Stays d (d.modEntry t f) where
  __ := Stays.refl _
  queue := map_inRange fun e => by
    split_ifs
    · exact ⟨(hf e).1, fun h => (hf e).2 ▸ h⟩
    · exact ⟨rfl, id⟩

theorem modRegion_stays (n : RegionNo) {f : Region → Region} (hf : ∀ r, r.lapses ≤ 65535 → (f r).lapses ≤ 65535) :
    Stays d (d.modRegion n f) where
  __ := Stays.refl _
  rs := fun h m => by
    by_cases hm : m = n
    · subst hm
      rw [modRegion_rs, regionAt_modRegion]
      exact hf _ (h m)
    · rw [modRegion_rs, regionAt_modRegion_ne _ _ _ _ hm]
      exact h m

/-! ### Roster records and the collect window -/

theorem roster_inRange {p q : Pc} (hresyncs : q.resyncs = p.resyncs) (hwindow : q.window = p.window)
    (hroster : (∀ x, (p.rosterAt x).Sound) → ∀ x, (q.rosterAt x).Sound) (h : PcInRange p) : PcInRange q := by
  obtain ⟨h1, h2, h3⟩ := h
  exact ⟨hresyncs ▸ h1, hroster h2, hwindow ▸ h3⟩

theorem modRoster_inRange (p : Pc) (x : Station) {f : RosterRec → RosterRec}
    (hf : ∀ r : RosterRec, r.Sound → (f r).Sound) (h : PcInRange p) : PcInRange (p.modRoster x f) := by
  refine roster_inRange (p := p) rfl rfl (fun hr y => ?_) h
  by_cases hy : y = x
  · subst hy; rw [rosterAt_modRoster]; exact hf _ (hr y)
  · rw [rosterAt_modRoster_ne _ _ _ _ hy]; exact hr y

theorem modRoster_stays (x : Station) {f : RosterRec → RosterRec} (hf : ∀ r : RosterRec, r.Sound → (f r).Sound) :
    Stays d (d.modRoster x f) := { Stays.refl _ with pc := modRoster_inRange d.pc x hf }

theorem rosterAt_map (p : Pc) (f : RosterRec → RosterRec) (x : Station) :
    Pc.rosterAt { p with roster := p.roster.map f } x = f (p.rosterAt x) := by
  simp [Pc.rosterAt]

theorem clearMismatches_stays : Stays d d.clearMismatches where
  __ := Stays.refl _
  pc := roster_inRange rfl rfl fun h x => by
    rw [clearMismatches_pc, rosterAt_map]
    exact ⟨Nat.zero_le 2, (h x).2⟩

theorem cleared_sound (r : RosterRec) (h : r.Sound) : r.cleared.Sound := ⟨Nat.zero_le 2, h.2⟩

theorem tallyAt_fresh (t : Time) (x : Station) :
    Window.tallyAt { ends := t, tallies := Vector.replicate 16 Tally.fresh } x = Tally.fresh := by
  simp [Window.tallyAt]

theorem openWindow_stays : Stays d d.openWindow where
  __ := Stays.refl _
  pc := by
    rintro ⟨hresyncs, hroster, -⟩
    refine ⟨hresyncs, hroster, fun w hw x => ?_⟩
    cases hw
    rw [tallyAt_fresh]
    exact ⟨by decide, by decide⟩

theorem modTally_stays (x : Station) {f : Tally → Tally}
    (hf : ∀ t : Tally, t.counted ≤ 2 ∧ t.announced ≤ 3 → (f t).counted ≤ 2 ∧ (f t).announced ≤ 3) :
    Stays d (d.modTally x f) := by
  cases hw : d.pc.window with
  | none => rw [modTally_closed x f hw]; exact Stays.refl d
  | some w =>
    rw [modTally_open x f hw]
    refine { Stays.refl _ with pc := ?_ }
    rintro ⟨hresyncs, hroster, hwindow⟩
    refine ⟨hresyncs, hroster, fun v hv y => ?_⟩
    cases hv
    rw [tallyAt_set]
    split_ifs
    · exact hf _ (hwindow w hw x)
    · exact hwindow w hw y

theorem excludeTally_stays (x : Station) : Stays d (d.excludeTally x) := modTally_stays d x fun _ => id

/-! ### The CLAIM slot and the local queue (R51, R55, R162 to R166) -/

theorem clearClaimSlot_stays : Stays d d.clearClaimSlot where
  __ := Stays.refl _
  table := table_of_claim rfl rfl nofun

theorem returnOrigin_stays (c : Claim) : Stays d (d.returnOrigin c) := by
  unfold Dev.returnOrigin
  split
  · exact modEntry_stays d _ fun _ => ⟨rfl, rfl⟩
  · exact modRegion_stays d _ fun _ => id

theorem unstage_stays (c : Claim) : Stays d (d.unstage c) :=
  (clearClaimSlot_stays d).trans (returnOrigin_stays _ c)

theorem unstageWaiting_stays : Stays d d.unstageWaiting := by
  unfold Dev.unstageWaiting
  split
  · exact unstage_stays d _
  · exact Stays.refl d

/-- The claim in the CLAIM slot takes new marks. -/
theorem markClaim_stays {c : Claim} (hc : d.biu.outbox.claim = some c) (c' : Claim) :
    Stays d { d with biu.outbox.claim := some c' } where
  __ := Stays.refl _
  table := table_of_claim rfl rfl fun _ => by rw [hc]; rfl

theorem callBack_stays : Stays d d.callBack := by
  unfold Dev.callBack
  split
  · exact Stays.refl d
  next c hc =>
    split_ifs
    · exact markClaim_stays d hc _
    · exact unstage_stays d c

theorem removeEntry_stays (t : Byte) : Stays d (d.removeEntry t) := by
  unfold Dev.removeEntry
  split
  · exact Stays.refl d
  · dsimp only
    split_ifs
    · exact { Stays.refl _ with queue := fun h => flagFirst_inRange _ (filter_inRange _ h) }
    · exact { Stays.refl _ with queue := filter_inRange _ }
    · exact { Stays.refl _ with queue := filter_inRange _ }

theorem endEntry_stays (t : Byte) (n : Notice) : Stays d (d.endEntry t n) :=
  (removeEntry_stays d t).trans (notify_stays _ n)

theorem endClaim_stays (c : Claim) : Stays d (d.endClaim c) := by
  unfold Dev.endClaim
  split
  · split_ifs
    · exact (clearClaimSlot_stays d).trans (endEntry_stays _ _ _)
    · exact (clearClaimSlot_stays d).trans (endEntry_stays _ _ _)
    · exact unstage_stays d c
  · exact unstage_stays d c

theorem claimBack_stays : Stays d d.claimBack := by
  unfold Dev.claimBack
  split
  · split_ifs
    · exact endClaim_stays d _
    · exact Stays.refl d
  · exact Stays.refl d

theorem dropEntry_stays (e : Entry) (n : Notice) : Stays d (d.dropEntry e n) := by
  unfold Dev.dropEntry
  split_ifs
  · exact (clearClaimSlot_stays d).trans (endEntry_stays _ _ _)
  · exact endEntry_stays d _ _

/-! ### The urgency evaluation (R128, R129, R132) -/

theorem placePleaFor_stays (u : Urgency) : Stays d (d.placePleaFor u) := by
  unfold Dev.placePleaFor
  split
  · exact Stays.refl d
  all_goals split <;> exact { Stays.refl _ with }

theorem urgentUnstage_stays : Stays d d.urgentUnstage := by
  unfold Dev.urgentUnstage
  split
  · exact Stays.refl d
  · split_ifs
    · exact Stays.refl d
    · exact callBack_stays d

theorem evalUrgency_stays : Stays d d.evalUrgency := by
  have hplaced (u : Urgency) : Stays d (Dev.placePleaFor u { d with rs.urgency := u }) :=
    (placePleaFor_stays _ _).after { Stays.refl _ with }
  unfold Dev.evalUrgency
  dsimp only
  split_ifs
  · exact Stays.refl d
  · exact (hplaced _).trans ((prompt_stays _).trans (urgentUnstage_stays _))
  · exact (hplaced _).trans (prompt_stays _)

end Sys2Proof.StandingBounds
end

section
/-! PROOFS. What the changes of presence state, the outbox and the close of a step keep (R22, R24, R45, R80 to R102,
R157). -/

namespace Sys2Proof.StandingBounds

open Sys2Proof.Machine Sys2Proof.Laws Sys2Proof.ClaimLifeCycle Sys2Proof.JoinResync

variable (d : Dev)

/-! ### Into LISTENING, SYNCING and MEMBER (R80, R84, R91, R94) -/

/-- No window runs in a presence controller whose counts are otherwise as they were. -/
theorem closed_inRange {p q : Pc} (hresyncs : q.resyncs = p.resyncs) (hroster : q.roster = p.roster)
    (hwindow : q.window = none) (h : PcInRange p) : PcInRange q :=
  ⟨hresyncs ▸ h.1, fun x => by unfold Pc.rosterAt; rw [hroster]; exact h.2.1 x,
    fun w hw => by rw [hwindow] at hw; cases hw⟩

theorem enter_stays (p : Presence) : Stays d (d.enter p) := (notify_stays _ _).after { Stays.refl _ with }

theorem answerIfDue_stays : Stays d d.answerIfDue := by
  unfold Dev.answerIfDue Biu.placeAnswer
  split_ifs <;> exact { Stays.refl _ with }

theorem enterListening_stays : Stays d d.enterListening := (enter_stays _ _).after { Stays.refl _ with }

theorem giveReady_stays : Stays d d.giveReady := by
  unfold Dev.giveReady
  split_ifs
  · exact Stays.refl d
  · exact (notify_stays _ _).after { Stays.refl _ with }

theorem startBeacons_stays : Stays d d.startBeacons := by
  unfold Dev.startBeacons
  split_ifs <;> exact { Stays.refl _ with }

theorem markPlea_stays : Stays d d.markPlea := by
  unfold Dev.markPlea
  split <;> exact { Stays.refl _ with }

theorem enterMember_stays : Stays d d.enterMember := by
  have hclosed : Stays d { d with pc.syncCause := none, pc.window := none, pu.setupLock := true } :=
    { Stays.refl _ with pc := closed_inRange rfl rfl rfl, lock := fun _ => rfl }
  have hentered : Stays d (memberEntered d) :=
    (hclosed.trans (enter_stays _ _)).trans
      ((giveReady_stays _).trans ((clearMismatches_stays _).trans (startBeacons_stays _)))
  rw [enterMember_eq]
  split_ifs
  · exact hentered.trans (prompt_stays _)
  · exact (hentered.trans (markPlea_stays _)).trans (prompt_stays _)

theorem checkAnswers_stays : Stays d d.checkAnswers := by
  unfold Dev.checkAnswers
  split
  · split_ifs
    · exact enterMember_stays d
    · exact Stays.refl d
  · exact Stays.refl d

theorem countResync_inRange (p : Pc) (h : PcInRange p) : PcInRange { p with resyncs := inc16 p.resyncs } :=
  ⟨inc16_le _ h.1, h.2⟩

/-- A resync clears every mismatch count, so its start is safe whatever those counts were (R94). -/
theorem startResync_stays : Stays d d.startResync := by
  have hclosed : Stays d { d.clearMismatches with pc.syncCause := some .resync, pc.window := none } :=
    (clearMismatches_stays d).trans { Stays.refl _ with pc := closed_inRange rfl rfl rfl }
  exact (hclosed.trans (enter_stays _ .syncing)).trans { Stays.refl _ with pc := fun h => countResync_inRange _ h }

theorem resyncIfMember_stays : Stays d (if d.pc.presence = .member then d.startResync else d) := by
  split_ifs
  · exact startResync_stays d
  · exact Stays.refl d

theorem countContest_sound (r : RosterRec) (h : r.Sound) : RosterRec.Sound { r with contests := inc16 r.contests } :=
  ⟨h.1, inc16_le _ h.2.1, h.2.2⟩

theorem contest_stays (x : Station) : Stays d (d.contest x) := by
  unfold Dev.contest
  dsimp only
  have hcounted : Stays d { d with ht.contests := inc16 d.ht.contests } :=
    { Stays.refl _ with ht := fun h => ⟨inc16_le _ h.1, h.2⟩ }
  have hmarked (e : Dev) : Stays e
      (if x = e.pc.station then e else e.modRoster x (fun r => { r with contests := inc16 r.contests })) := by
    split_ifs
    · exact Stays.refl e
    · exact modRoster_stays e x countContest_sound
  exact ((hcounted.trans (hmarked _)).trans (notify_stays _ (.alert (.contest x)))).trans (resyncIfMember_stays _)

/-! ### The outbox emptied (R24, R45, R56, log 14) -/

theorem notifyCancelling_stays : Stays d d.notifyCancelling := by
  unfold Dev.notifyCancelling
  generalize d.ownHoldings = l
  induction l generalizing d with
  | nil => exact Stays.refl d
  | cons x xs ih =>
    rw [List.foldl_cons]
    refine Stays.trans ?_ (ih _)
    split
    · split
      · exact notify_stays d _
      · exact Stays.refl d
    · exact Stays.refl d

theorem emptyView_ordered (h : Ht) : ViewOrdered h.clearedView :=
  ⟨List.Pairwise.nil, Nat.zero_le 32, List.nodup_nil⟩

theorem clearReplica_stays : Stays d d.clearReplica := by
  refine (notifyCancelling_stays d).trans { Stays.refl _ with ht := fun h => ⟨h.1, Nat.zero_le 16⟩, table := ?_ }
  exact table_of_view rfl (fun _ => emptyView_ordered d.notifyCancelling.ht) (Nat.zero_le _)

theorem emptyClaim_stays : Stays d d.emptyClaim := by
  unfold Dev.emptyClaim
  split
  · exact Stays.refl d
  · exact unstage_stays d _
  · split_ifs
    · exact Stays.refl d
    · exact clearClaimSlot_stays d
    · exact endClaim_stays d _
    · exact unstage_stays d _

theorem only_claim (r : SlotRef) (o : Outbox) (h : (o.only r).claim.isSome = true) : o.claim.isSome = true := by
  cases r
  case claim => exact h
  all_goals cases h

/-- Nothing is in hand and no claim stands: the own holdings alone count. -/
theorem table_bare {a b : Dev} (hht : b.ht = a.ht) (hi : b.biu.inHand = none) (hc : b.biu.outbox.claim = none)
    (h : a.TableSound) : b.TableSound :=
  table_of (by rw [hht]; exact id) (by rw [hht]) (fun f hf => by rw [hi] at hf; cases hf)
    (fun hb => by rw [openClaim_isSome, hc] at hb; exact absurd hb.1 Bool.false_ne_true) h

theorem emptyOutbox_stays : Stays d d.emptyOutbox := by
  unfold Dev.emptyOutbox
  refine (emptyClaim_stays d).trans ?_
  dsimp only
  split
  next f hf =>
    split_ifs
    · exact { Stays.refl _ with table := table_of_claim rfl rfl (only_claim _ _) }
    · exact { Stays.refl _ with table := table_bare rfl rfl rfl }
  next hf => exact { Stays.refl _ with table := table_bare rfl hf rfl }

/-! ### LINK_FAULT and CONFIG_FAULT (R99 to R102) -/

theorem recover_stays : Stays d d.recover := by
  have hreset (e : Dev) :
      Stays e { e with pc.roster := e.pc.roster.map RosterRec.cleared, biu.losses := 0, biu.consecErrors := 0 } :=
    { Stays.refl _ with
      biu := fun h => ⟨Nat.zero_le _, Nat.zero_le _, h.2.2⟩
      pc := roster_inRange rfl rfl fun h x => by rw [rosterAt_map]; exact cleared_sound _ (h x) }
  exact (((emptyOutbox_stays d).trans (clearReplica_stays _)).trans (hreset _)).trans (enterListening_stays _)

theorem linkFault_stays (c : LinkCause) : Stays d (d.linkFault c) := by
  unfold Dev.linkFault
  have hclosed : Stays d { d with pc.syncCause := none, pc.window := none } :=
    { Stays.refl _ with pc := closed_inRange rfl rfl rfl }
  have hfaulted := ((hclosed.trans (enter_stays _ .linkFault)).trans (notify_stays _ (.alert (.linkFault c)))).trans
    (unstageWaiting_stays _)
  dsimp only
  split_ifs
  · exact hfaulted.trans (recover_stays _)
  · exact hfaulted
  · exact Stays.refl d

theorem configFault_stays (c : CfgCause) : Stays d (d.configFault c) := by
  unfold Dev.configFault
  have hclosed : Stays d { d with
      pc.syncCause := none, pc.cfgCause := some c, pc.window := none, pc.listenEnds := none, pc.beaconEnds := none } :=
    { Stays.refl _ with pc := closed_inRange rfl rfl rfl }
  exact (((hclosed.trans (enter_stays _ .configFault)).trans (notify_stays _ (.alert (.configFault c)))).trans
    (emptyOutbox_stays _)).trans { Stays.refl _ with }

/-! ### The close of a step (R157, log 11) -/

theorem satInc_four (n : Nat) (h : n ≤ 4) : satInc 4 n ≤ 4 := satInc_le 4 n h

theorem bump_inRange (passed : List Byte) (h : QueueInRange d.oqs.queue) : QueueInRange (d.bump passed).oqs.queue :=
  map_inRange (fun e => by
    split_ifs
    · exact ⟨rfl, satInc_four e.bypass⟩
    · exact ⟨rfl, id⟩) h

/-- What a selection stages moves no tag, and no bypass count beyond 4. -/
theorem selected_inRange {d x : Dev} (h : Selected d x) (hq : QueueInRange d.oqs.queue) : QueueInRange x.oqs.queue := by
  cases h with
  | nothing => exact hq
  | refresh r passed => exact bump_inRange d passed hq
  | entry e y passed => exact map_inRange (fun e => by split_ifs <;> exact ⟨rfl, id⟩) (bump_inRange d passed hq)

theorem stages_inRange {a b : Dev} (h : NothingStaged a b) : QueueInRange a.oqs.queue → QueueInRange b.oqs.queue :=
  queue_of_map (h.map_queue (fun e => (e.tag, e.bypass)) fun _ => rfl)

theorem close_inRange (b : Dev) (h : QueueInRange d.oqs.queue) : QueueInRange (Dev.close b d).oqs.queue := by
  by_cases hs : Dev.SelectionDue b d ∧ d.selectable = true
  · obtain ⟨x, hx, hc⟩ := close_selects hs.1 hs.2
    rw [hc]
    refine stages_inRange (keepSelTimer_stages x) (selected_inRange hx ?_)
    exact stages_inRange ((opened_stages b d).trans (selecting_stages _)) h
  · exact stages_inRange (close_stages_nothing hs) h

/-- A claim is staged where fewer than two own holdings stand and the CLAIM slot is empty (R11, R157). -/
theorem close_table (b : Dev) (h : d.TableSound) : (Dev.close b d).TableSound := by
  by_cases hs : Dev.SelectionDue b d ∧ d.selectable = true
  · obtain ⟨-, -, -, hroom, -⟩ := (selectable_iff d).mp hs.2
    rw [tableSound_iff] at h ⊢
    obtain ⟨view, frame, -⟩ := h
    refine ⟨⟨?_, ?_, ?_⟩, ?_, ?_⟩
    · rw [close_holdings]; exact view.canonical
    · rw [close_holdings]; exact view.room
    · rw [close_calQueue]; exact view.cal
    · rw [close_inHand]; exact frame
    · rw [close_holdings, ownCount, ← ownHoldings_length]
      split_ifs <;> omega
  · have hclaim := (close_stages_nothing hs).claim
    refine table_of (fun view => ⟨?_, ?_, ?_⟩) ?_ ?_ ?_ h
    · rw [close_holdings]; exact view.canonical
    · rw [close_holdings]; exact view.room
    · rw [close_calQueue]; exact view.cal
    · rw [close_holdings]
    · rw [close_inHand]; exact h.2.2.1
    · rw [openClaim_isSome, openClaim_isSome, close_inHand, hclaim]; exact id

theorem close_stays (b : Dev) : Stays d (Dev.close b d) where
  biu := fun h => by
    rw [BiuInRange, close_losses, close_consecErrors, close_totalErrors, close_undelivered, close_rxDiscards]; exact h
  ht := fun h => by rw [HtInRange, close_contests, close_surge]; exact h
  pc := by rw [close_pc]; exact id
  rs := fun h n => by rw [close_lapses]; exact h n
  queue := close_inRange d b
  pu := by rw [close_pu]; exact id
  table := close_table d b
  station := by rw [close_pc]
  budget := by rw [close_pc]
  lock := by rw [close_pu]; exact id

end Sys2Proof.StandingBounds
end

section
/-! PROOFS. What the station's own frames on the line keep: BUS_FREE, a lost or aborted attempt, a completed send and
every delivery (R16, R29 to R34, R39 to R46, R57 to R60, R68 to R70, R86, R94, R97). -/

namespace Sys2Proof.StandingBounds

open Sys2Proof.Machine Sys2Proof.Laws Sys2Proof.ClaimLifeCycle Sys2Proof.JoinResync Sys2Proof.BudgetBus
  Sys2Proof.HoldingsList

variable (d : Dev)

/-! ### The frame in hand and the outbox -/

/-- A change of the outbox that stages no claim. -/
theorem outbox_stays {o : Outbox} (h : o.claim.isSome = true → d.biu.outbox.claim.isSome = true) :
    Stays d { d with biu.outbox := o } where
  __ := Stays.refl _
  table := table_of_claim rfl rfl h

/-- A change of the frame in hand after which no claim is open that was not: the new frame is sound where the table was,
and a claim in hand has not become undelivered. -/
theorem table_of_frame {a b : Dev} {f' : InHand} (hht : b.ht = a.ht)
    (hc : b.biu.outbox.claim.isSome = true → a.biu.outbox.claim.isSome = true) (hf' : b.biu.inHand = some f')
    (hsound : (∀ f, a.biu.inHand = some f → f.Sound) → f'.Sound)
    (hopen : ∀ f, a.biu.inHand = some f → f.ref = .claim →
      f'.ref = .claim ∧ (f'.delivered = false → f.delivered = false))
    (h : a.TableSound) : b.TableSound := by
  refine table_of (by rw [hht]; exact id) (by rw [hht]) (fun f hf => ?_) (fun hb => ?_) h
  · cases hf'.symm.trans hf
    exact hsound h.2.2.1
  · rw [openClaim_isSome] at hb ⊢
    obtain ⟨hclaim, hdelivered⟩ := hb
    refine ⟨hc hclaim, fun f hf hr => ?_⟩
    obtain ⟨hr', hd⟩ := hopen f hf hr
    exact hd (hdelivered f' hf' hr')

/-- The frame in hand is given up; a claim of the CLAIM slot has not been delivered. -/
theorem dropInHand_stays {f : InHand} (hf : d.biu.inHand = some f)
    (hd : d.TableSound → f.ref = .claim → f.delivered = false) : Stays d { d with biu.inHand := none } where
  __ := Stays.refl _
  table := fun h => by
    refine table_of (a := d) id le_rfl nofun (fun hb => ?_) h
    rw [openClaim_isSome] at hb ⊢
    refine ⟨hb.1, fun g hg hr => ?_⟩
    cases hf.symm.trans hg
    exact hd h hr

theorem remove_claim {r : SlotRef} (o : Outbox) (h : (o.remove r).claim.isSome = true) : o.claim.isSome = true := by
  cases r
  case claim => cases h
  all_goals exact h

theorem backToWaiting_claim (r : SlotRef) (o : Outbox) : (o.backToWaiting r).claim = o.claim := by
  cases r
  case extend x => unfold Outbox.backToWaiting; dsimp only; split_ifs <;> rfl
  all_goals rfl

theorem number_claim (r : SlotRef) (q : Byte) (o : Outbox) : (o.number r q).claim.isSome = o.claim.isSome := by
  cases r
  case claim => simp [Outbox.number]
  all_goals rfl

/-! ### BUS_FREE (R29, R46, R51) -/

theorem retest_stays : Stays d d.retest := by
  unfold Dev.retest
  split
  · exact Stays.refl d
  next c hc =>
    split_ifs
    · exact markClaim_stays d (RetentionDuty.claim_of_staged hc) _
    · exact unstage_stays d c
    · exact Stays.refl d

theorem tested_stays : Stays d (tested d) := (retest_stays _).after { Stays.refl _ with }

theorem startAttempt_stays {o : Offer} (hi : d.biu.inHand = none) (ho : OfferFits d o) :
    Stays d (d.startAttempt o) where
  __ := Stays.refl _
  table := table_of_frame rfl (fun h => by rwa [← number_claim o.ref (o.seq.getD d.biu.seqCtr)]) rfl
    (fun _ => ⟨ho.1, nofun⟩) (fun f hf => by rw [hi] at hf; cases hf)

theorem startRepeat_stays {f : InHand} (hf : d.biu.inHand = some f) : Stays d (d.startRepeat f) where
  __ := Stays.refl _
  table := table_of_frame rfl id rfl (fun h => h f hf)
    (fun g hg hr => by cases hf.symm.trans hg; exact ⟨hr, id⟩)

theorem busFree_stays : Stays d d.busFree := by
  cases hi : d.biu.inHand with
  | some f =>
    rw [busFree_repeat hi]
    split_ifs
    · exact (tested_stays d).trans (startRepeat_stays _ ((tested_inHand d).trans hi))
    · exact tested_stays d
  | none =>
    by_cases hs : (tested d).offering = true
    · cases ho : (tested d).firstOffer with
      | none => rw [busFree_nothing hi (.inr ho)]; exact tested_stays d
      | some o =>
        rw [busFree_starts hi hs ho]
        exact (tested_stays d).trans (startAttempt_stays _ ((tested_inHand d).trans hi) (firstOffer_fits ho))
    · rw [busFree_nothing hi (.inl (Bool.eq_false_iff.mpr hs))]
      exact tested_stays d

/-! ### A frame leaves its slot, or waits again (R31, R33, R45, R52, R53) -/

theorem leaveSlot_stays {f : InHand} (hf : d.biu.inHand = some f) : Stays d (d.leaveSlot f) := by
  by_cases hr : f.ref = .claim
  · cases hd : f.delivered with
    | true =>
      rw [leaveSlot_delivered hr hd]
      exact { Stays.refl _ with table := table_bare rfl rfl rfl }
    | false =>
      have hdrop := dropInHand_stays d hf fun _ _ => hd
      cases hc : d.biu.outbox.claim with
      | none =>
        have hnone : d.leaveSlot f = { d with biu.inHand := none } := by
          simp [Dev.leaveSlot, hr, hd, hc]
        rw [hnone]
        exact hdrop
      | some c =>
        rw [leaveSlot_undelivered hr hd hc]
        exact hdrop.trans (endClaim_stays _ c)
  · rw [leaveSlot_other hr]
    exact (dropInHand_stays d hf fun _ h => absurd h hr).trans (outbox_stays _ (remove_claim _))

theorem attemptFailed_stays : Stays d d.attemptFailed := by
  cases hf : d.biu.inHand with
  | none => simp only [Dev.attemptFailed, hf]; exact Stays.refl d
  | some f =>
    by_cases hp : d.pc.presence = .configFault
    · rw [attemptFailed_configFault hf hp]
      exact leaveSlot_stays d hf
    · by_cases hs : f.sends = 0
      · have hundelivered (h : d.TableSound) : f.delivered = false := by
          obtain ⟨-, hsent⟩ := h.2.2.1 f hf
          exact Bool.eq_false_iff.mpr fun hd => absurd (hsent hd) (by omega)
        have hdrop := dropInHand_stays d hf fun h _ => hundelivered h
        by_cases hr : f.ref = .claim
        · rw [attemptFailed_claim hf hp hs hr]
          exact hdrop.trans (claimBack_stays _)
        · rw [attemptFailed_waits hf hp hs hr]
          exact hdrop.trans (outbox_stays _ fun h => by rwa [backToWaiting_claim] at h)
      · rw [attemptFailed_committed hf hp hs]
        exact { Stays.refl _ with
          table := table_of_frame rfl id rfl (fun h => h f hf)
                  (fun g hg hr => by cases hf.symm.trans hg; exact ⟨hr, id⟩) }

theorem arbitrationLost_stays : Stays d d.arbitrationLost := by
  have hcounted : Stays d { d with biu.losses := satInc Config.lossMax d.biu.losses, biu.line := .silent } :=
    { Stays.refl _ with biu := fun h => ⟨satInc_le _ _ h.1, h.2⟩ }
  exact hcounted.trans (attemptFailed_stays _)

theorem errorCounted_stays {n : Nat} (h : n ≤ 15) : Stays d (errorCounted n d) := by
  have hcounted :
      Stays d { d with biu.consecErrors := n, biu.totalErrors := inc16 d.biu.totalErrors, biu.line := .abort } :=
    { Stays.refl _ with biu := fun hb => ⟨hb.1, h, inc16_le _ hb.2.2.1, hb.2.2.2⟩ }
  exact hcounted.trans (attemptFailed_stays _)

/-- The sixteenth error in a row clears the count (R34). -/
theorem bitError_stays : Stays d d.bitError := by
  by_cases h : d.biu.consecErrors < 15
  · rw [bitError_below h]
    exact errorCounted_stays d h
  · have hsixteenth : d.bitError = Dev.linkFault .busErrors (errorCounted 0 d) := by
      have hrun : Config.errorRun ≤ d.biu.consecErrors + 1 := show 16 ≤ _ by omega
      unfold Dev.bitError
      simp only [if_pos hrun]
      rfl
    rw [hsixteenth]
    exact (errorCounted_stays d (Nat.zero_le 15)).trans (linkFault_stays _ _)

/-! ### The records and the calibration queue change (R1, R2, R5) -/

/-- Records leave the list, and stations the calibration queue. -/
theorem view_filtered {h k : Ht} (hl : k.holdings.Sublist h.holdings)
    (hq : (h.calQueue.map Prod.fst).Nodup → (k.calQueue.map Prod.fst).Nodup) : ViewOrdered h → ViewOrdered k
  | ⟨canonical, room, cal⟩ => ⟨List.Pairwise.sublist hl canonical, hl.length_le.trans room, hq cal⟩

theorem ownCount_sublist {l m : List Holding} (h : l.Sublist m) : ownCount l ≤ ownCount m := h.countP_le

/-- A record of the list is changed, but for its key and for whether it is an own one. -/
theorem view_mapped (x : Station) (k : Byte) {f : Holding → Holding} (hkey : ∀ y, (f y).key = y.key) (h : Ht) :
    ViewOrdered h → ViewOrdered { h with holdings := mapHolding x k f h.holdings }
  | ⟨canonical, room, cal⟩ => ⟨mapHolding_canonical x k f _ hkey canonical, by simpa [mapHolding] using room, cal⟩

theorem ownCount_mapped (x : Station) (k : Byte) {f : Holding → Holding} (hown : ∀ y, (f y).isOwn = y.isOwn)
    (l : List Holding) : ownCount (mapHolding x k f l) = ownCount l := by
  unfold ownCount mapHolding
  rw [List.countP_map]
  refine List.countP_congr fun y _ => ?_
  simp only [Function.comp_apply]
  split_ifs
  · rw [hown]
  · rfl

/-! ### The own claim is delivered (R16, R57 to R60) -/

/-- Step 1 of R57 without its contest: the surge entry and the own record (R16). -/
def recorded (c : Claim) (d : Dev) : Dev :=
  { d with ht.surge := surgeAdd d.now d.ht.surge,
           ht.holdings := insertHolding (ownRecord d.pc.station d.now c) (makeRoom d.ht.holdings) }

/-- The own record joins the list: the claim that stood open counts for it. -/
theorem recorded_stays (c : Claim) {e : Dev} (h : Stays d e) (hht : e.ht = d.ht)
    (hopen : d.TableSound → d.biu.openClaim.isSome = true) (hclosed : d.TableSound → e.biu.openClaim.isSome = false) :
    Stays d (recorded c e) where
  biu := h.biu
  ht := fun hr => ⟨(h.ht hr).1, surgeAdd_length _ _⟩
  pc := h.pc
  rs := h.rs
  queue := h.queue
  pu := h.pu
  table := fun ht => by
    have hnone : (recorded c e).biu.openClaim.isSome = false := hclosed ht
    have hl : (recorded c e).ht.holdings = insertHolding (ownRecord e.pc.station e.now c) (makeRoom d.ht.holdings) := by
      rw [← hht]; rfl
    have hq : (recorded c e).ht.calQueue = d.ht.calQueue := by rw [← hht]; rfl
    have hframe := (h.table ht).2.2.1
    have hsome := hopen ht
    rw [tableSound_iff, if_pos hsome] at ht
    obtain ⟨view, -, count⟩ := ht
    have hown : ownCount (recorded c e).ht.holdings ≤ ownCount d.ht.holdings + 1 := by
      rw [hl]
      exact (insertHolding_own _ _).trans
        (Nat.add_le_add (ownCount_sublist (makeRoom_sublist _)) (by split_ifs <;> decide))
    have hroom : (makeRoom d.ht.holdings).length < 32 := makeRoom_length view.room (by unfold ownCount at count; omega)
    rw [tableSound_iff, hnone]
    refine ⟨⟨?_, ?_, hq ▸ view.cal⟩, hframe, by simp only [Bool.false_eq_true, if_false]; omega⟩
    · rw [hl]
      exact insertHolding_canonical _ _ (List.Pairwise.sublist (makeRoom_sublist _) view.canonical)
    · rw [hl]
      exact (insertHolding_length _ _).trans hroom
  station := h.station
  budget := h.budget
  lock := h.lock

theorem withdrawRequeue_stays : Stays d { d with biu := d.biu.withdrawRequeue } := by
  unfold Biu.withdrawRequeue
  split_ifs
  · exact Stays.refl d
  · split
    · split_ifs
      · exact outbox_stays d id
      · exact Stays.refl d
    · exact Stays.refl d

/-- The rest of step 1: what a CAL claim settles, and the contest of a full list or of a delivery on a repeat. -/
theorem addOwnRecord_stays (c : Claim) (onRepeat : Bool) {e : Dev} (h : Stays d (recorded c e)) :
    Stays d (e.addOwnRecord c onRepeat) := by
  have hcal (x : Dev) : Stays x
      (if c.cls = .cal then { x with ht.headTimer := none, biu := x.biu.withdrawRequeue } else x) := by
    split_ifs
    · exact (withdrawRequeue_stays x).trans { Stays.refl _ with }
    · exact Stays.refl x
  have hcontest (p : Prop) [Decidable p] (x : Dev) : Stays x (if p then x.contest x.pc.station else x) := by
    split_ifs
    · exact contest_stays x _
    · exact Stays.refl x
  exact (h.trans (hcal _)).trans (hcontest _ _)

theorem claimGranted_stays (c : Claim) : Stays d (d.claimGranted c) := by
  unfold Dev.claimGranted
  split
  · exact { Stays.refl _ with queue := filter_inRange _ }
  · exact modRegion_stays d _ fun _ => id

theorem placeRelease_stays (x : Byte) (o : RelOutcome) : Stays d (d.placeRelease x o) := by
  unfold Dev.placeRelease
  rw [placeRelease_eq]
  exact outbox_stays d id

theorem goOrCancel_stays (c : Claim) : Stays d (d.goOrCancel c) := by
  unfold Dev.goOrCancel
  split_ifs
  · exact (placeRelease_stays { d with pu.goReserved := false } _ _).after { Stays.refl _ with }
  · exact notifyGo_stays d _

/-- The frame in hand as its delivery is noted. -/
theorem delivered_stays {f f' : InHand} (hf : d.biu.inHand = some f) (hd : f.delivered = false) (hr : f'.ref = f.ref)
    (hb : f'.body = f.body) (hs : 1 ≤ f'.sends) : Stays d { d with biu.inHand := some f' } where
  __ := Stays.refl _
  table := table_of_frame rfl id rfl (fun h => ⟨by rw [hr, hb]; exact (h f hf).1, fun _ => hs⟩)
    (fun g hg hc => by cases hf.symm.trans hg; exact ⟨hr.trans hc, fun _ => hd⟩)

/-- The claim in hand is delivered: its own record takes the place of the open claim. -/
theorem claimDelivered_stays (onRepeat : Bool) {f f' : InHand} (hf : d.biu.inHand = some f) (hd : f.delivered = false)
    (hclaim : isClaimFrame f.body = true) (hr : f'.ref = f.ref) (hb : f'.body = f.body) (hs : 1 ≤ f'.sends)
    (hd' : f'.delivered = true) : Stays d (Dev.ownClaimDelivered onRepeat { d with biu.inHand := some f' }) := by
  have hnoted := delivered_stays d hf hd hr hb hs
  cases hc : d.biu.outbox.claim with
  | none =>
    have hnone : Dev.ownClaimDelivered onRepeat { d with biu.inHand := some f' } =
        { d with biu.inHand := some f' } := by
      simp [Dev.ownClaimDelivered, hc]
    rw [hnone]
    exact hnoted
  | some c =>
    have hsome : Dev.ownClaimDelivered onRepeat { d with biu.inHand := some f' } =
        (((Dev.addOwnRecord c onRepeat { d with biu.inHand := some f' }).claimGranted c).goOrCancel c).prompt := by
      simp [Dev.ownClaimDelivered, hc]
    have href (h : d.TableSound) : f.ref = .claim := (h.2.2.1 f hf).1.mpr hclaim
    have hrecorded := recorded_stays d c hnoted rfl
      (fun h => (openClaim_isSome d.biu).mpr ⟨by rw [hc]; rfl, fun g hg _ => by cases hf.symm.trans hg; exact hd⟩)
      (fun h => Bool.eq_false_iff.mpr fun ho => by
        have := ((openClaim_isSome _).mp ho).2 f' rfl (hr.trans (href h))
        rw [hd'] at this
        cases this)
    rw [hsome]
    exact (((addOwnRecord_stays d c onRepeat hrecorded).trans (claimGranted_stays _ c)).trans
      (goOrCancel_stays _ c)).trans (prompt_stays _)

/-! ### Every other delivery (R19, R20, R24, R68 to R70, R86, R94, R97, R143 to R145) -/

theorem credit_lapses (r : Region) : r.credit.lapses = r.lapses := by
  unfold Region.credit
  split_ifs <;> rfl

theorem ownReleaseDelivered_stays (x : Byte) (o : RelOutcome) : Stays d (d.ownReleaseDelivered x o) := by
  unfold Dev.ownReleaseDelivered
  split
  · exact Stays.refl d
  next y hy =>
    have hdropped : Stays d { d with
        ht.holdings := dropHolding d.pc.station x d.ht.holdings,
        ht.calQueue := if y.cls = Cls.cal then calDrop d.pc.station d.ht.calQueue else d.ht.calQueue } :=
      { Stays.refl _ with
        table := table_of_view rfl
          (view_filtered (h := d.ht) List.filter_sublist fun h => by
            dsimp only
            split_ifs
            · exact calDrop_nodup _ _ h
            · exact h)
          (ownCount_sublist List.filter_sublist) }
    have hnotice (n : Option Byte) (e : Dev) :
        Stays e (match o, n with | .cancelled, some t => e.notify (.cancelled t) | _, _ => e) := by
      split
      · exact notify_stays e _
      · exact Stays.refl e
    have hcredit (p : Prop) [Decidable p] (e : Dev) :
        Stays e (if p then (e.modRegion y.target.region Region.credit).evalUrgency else e) := by
      split_ifs
      · exact (modRegion_stays e _ fun r h => by rwa [credit_lapses]).trans (evalUrgency_stays _)
      · exact Stays.refl e
    exact ((hdropped.trans (hnotice _ _)).trans (hcredit _ _)).trans (prompt_stays _)

theorem ownExtendDelivered_stays (x n : Byte) : Stays d (d.ownExtendDelivered x n) where
  __ := Stays.refl _
  table := table_of_view rfl (view_mapped _ _ (f := fun y => { y with extensions := n }) (fun _ => rfl) d.ht)
    (ownCount_mapped d.pc.station x (f := fun y => { y with extensions := n }) (fun _ => rfl) _).le

theorem applyIntent_holdings (h : Ht) (x : Station) (a : IntentAction) (t : Word16) :
    (h.applyIntent x a t).holdings = h.holdings := by
  cases a <;> rfl

theorem applyIntent_stays (x : Station) (a : IntentAction) (t : Word16) :
    Stays d { d with ht := d.ht.applyIntent x a t } where
  __ := Stays.refl _
  ht := by cases a <;> exact id
  table := table_of_view rfl
    (fun h => ⟨by simpa only [applyIntent_holdings] using h.canonical,
      by simpa only [applyIntent_holdings] using h.room, applyIntent_nodup _ _ _ _ h.cal⟩)
    (by simp only [applyIntent_holdings]; exact le_rfl)

theorem ownIntentDelivered_stays (a : IntentAction) (t : Word16) : Stays d (d.ownIntentDelivered a t) := by
  have happlied := (applyIntent_stays d d.pc.station a t).trans (prompt_stays _)
  unfold Dev.ownIntentDelivered
  dsimp only
  split_ifs
  · exact happlied.trans { Stays.refl _ with }
  · exact happlied

theorem ownJoinDelivered_stays : Stays d d.ownJoinDelivered := by
  unfold Dev.ownJoinDelivered
  dsimp only
  split_ifs
  · exact enterMember_stays d
  · refine Stays.trans ?_ (openWindow_stays _)
    exact (enter_stays _ _).after { Stays.refl _ with }
  · exact Stays.refl d

theorem discardOthers_stays (x : Station) : Stays d { d with ht := d.ht.discardOthers x } where
  __ := Stays.refl _
  table := table_of_view rfl
    (view_filtered (h := d.ht) List.filter_sublist (List.filter_sublist.map Prod.fst).nodup)
    (ownCount_sublist List.filter_sublist)

theorem ownResyncDelivered_stays : Stays d d.ownResyncDelivered := by
  have hdiscarded := (discardOthers_stays d d.pc.station).trans (prompt_stays _)
  unfold Dev.ownResyncDelivered
  dsimp only
  split_ifs
  · exact (hdiscarded.trans (openWindow_stays _)).trans (checkAnswers_stays _)
  · exact hdiscarded

theorem ownLeaveDelivered_stays : Stays d d.ownLeaveDelivered := by
  unfold Dev.ownLeaveDelivered
  dsimp only
  split_ifs
  · have hempty (e : Dev) : Stays e { e with
        biu.outbox := { Outbox.empty with joinLeave := e.biu.outbox.joinLeave }, pc.beaconEnds := none } :=
      { Stays.refl _ with table := table_of_claim rfl rfl nofun }
    exact ((clearReplica_stays d).trans (hempty _)).trans (enter_stays _ _)
  · exact Stays.refl d

theorem deliver_stays {f : InHand} (h : isClaimFrame f.body = false) : Stays d (d.deliver f) := by
  unfold Dev.deliver
  split
  next => exact ownReleaseDelivered_stays d _ _
  next => exact ownExtendDelivered_stays d _ _
  next hb => rw [hb] at h; cases h
  next => exact { Stays.refl _ with }
  next => exact { Stays.refl _ with }
  next =>
    split
    · exact ownIntentDelivered_stays d _ _
    · exact Stays.refl d
  next => exact Stays.refl d
  next => exact Stays.refl d
  next => exact ownResyncDelivered_stays d
  next => exact Stays.refl d
  next => exact ownJoinDelivered_stays d
  next => exact ownLeaveDelivered_stays d

/-! ### SEND_COMPLETE (R32, R34, R39 to R41) -/

theorem afterSend_stays : Stays d d.afterSend := by
  unfold Dev.afterSend
  split
  · exact Stays.refl d
  next f hf =>
    dsimp only
    split_ifs
    · exact leaveSlot_stays d hf
    · exact leaveSlot_stays d hf
    · exact Stays.refl d
    · exact leaveSlot_stays d hf
    · have hcounted : Stays d { d with biu.undelivered := inc16 d.biu.undelivered } :=
        { Stays.refl _ with biu := fun h => ⟨h.1, h.2.1, h.2.2.1, inc16_le _ h.2.2.2.1, h.2.2.2.2⟩ }
      exact (hcounted.trans (leaveSlot_stays _ hf)).trans (linkFault_stays _ _)

/-- A completed send clears the two counts (R32, R34). -/
theorem sendCleared_stays : Stays d { d with biu.losses := 0, biu.consecErrors := 0, biu.line := .silent } where
  __ := Stays.refl _
  biu := fun h => ⟨Nat.zero_le _, Nat.zero_le _, h.2.2⟩

theorem sendEnded_stays (acks : BitVec 16) {f : InHand} (hf : d.biu.inHand = some f) :
    Stays d (sendEnded acks f d) where
  __ := Stays.refl _
  biu := (sendCleared_stays d).biu
  table := table_of_frame rfl id rfl (fun h => ⟨(h f hf).1, fun _ => Nat.le_add_left 1 f.sends⟩)
    (fun g hg hr => by cases hf.symm.trans hg; exact ⟨hr, id⟩)

theorem sendComplete_stays (acks : BitVec 16) : Stays d (d.sendComplete acks) := by
  cases hf : d.biu.inHand with
  | none => simp only [Dev.sendComplete, hf]; exact Stays.refl d
  | some f =>
    have hended := (sendEnded_stays d acks hf).trans (afterSend_stays _)
    cases hd : f.delivered with
    | true => rw [sendComplete_again hf hd]; exact hended
    | false =>
      cases hr : (f.sent acks d.pc.memberMask).reached d.pc.memberMask with
      | false => rw [sendComplete_missed hf hd hr]; exact hended
      | true =>
        rw [sendComplete_delivers hf hd hr]
        refine Stays.trans ?_ (afterSend_stays _)
        have hcleared := sendCleared_stays d
        cases hb : isClaimFrame f.body with
        | true =>
          have hdeliver (e : Dev) : e.deliver (f.sent acks d.pc.memberMask) =
              e.ownClaimDelivered (decide (1 < (f.sent acks d.pc.memberMask).sends)) := by
            unfold isClaimFrame at hb
            split at hb
            next hbody => simp [Dev.deliver, InHand.sent, hbody]
            next => cases hb
          rw [hdeliver]
          exact hcleared.trans (claimDelivered_stays _ _ hf hd hb rfl rfl (Nat.le_add_left 1 f.sends) rfl)
        | false =>
          have hnoted := delivered_stays { d with biu.losses := 0, biu.consecErrors := 0, biu.line := .silent }
            (f' := { f.sent acks d.pc.memberMask with delivered := true }) hf hd rfl rfl (Nat.le_add_left 1 f.sends)
          exact (hcleared.trans hnoted).trans (deliver_stays _ hb)

end Sys2Proof.StandingBounds
end

section
/-! PROOFS. What the frames received keep: the holding table, then the presence controller, and the receiver's decision
(R15, R18, R20, R35 to R38, R82, R87 to R95, R97, R101). -/

namespace Sys2Proof.StandingBounds

open Sys2Proof.Machine Sys2Proof.Laws Sys2Proof.ClaimLifeCycle Sys2Proof.JoinResync Sys2Proof.BudgetBus

variable (d : Dev)

/-! ### The holding table (R15, R18, R20, R24) -/

/-- A peer record joins the list where one stands under its key, or where the list has room. -/
theorem view_inserted {r : Holding} {h : Ht} (hroom : (∃ x ∈ h.holdings, x.key = r.key) ∨ h.holdings.length < 32) :
    ViewOrdered h → ViewOrdered { h with holdings := insertHolding r h.holdings }
  | ⟨canonical, room, cal⟩ => by
    refine ⟨insertHolding_canonical r _ canonical, ?_, cal⟩
    rcases hroom with hkey | hshort
    · exact (insertHolding_replaces r _ canonical hkey).trans_le room
    · exact (insertHolding_length r _).trans hshort

theorem ownCount_inserted {r : Holding} (hr : r.isOwn = false) (l : List Holding) :
    ownCount (insertHolding r l) ≤ ownCount l := by
  have h := insertHolding_own r l
  rwa [hr, if_neg Bool.false_ne_true] at h

theorem inserted_stays {r : Holding} (hr : r.isOwn = false)
    (hroom : (∃ x ∈ d.ht.holdings, x.key = r.key) ∨ d.ht.holdings.length < 32) :
    Stays d { d with ht.holdings := insertHolding r d.ht.holdings } where
  __ := Stays.refl _
  table := table_of_view rfl (view_inserted hroom) (ownCount_inserted hr _)

theorem key_of_findHolding {x : Station} {k : Byte} {l : List Holding} {y r : Holding} (h : findHolding x k l = some y)
    (hx : r.station = x) (hk : r.handle = k) : ∃ z ∈ l, z.key = r.key := by
  obtain ⟨hy, hyx, hyk⟩ := findHolding_some h
  exact ⟨y, hy, (key_inj y x k ⟨hyx, hyk⟩).trans (key_inj r x k ⟨hx, hk⟩).symm⟩

/-- The list is not full: the key stands in it, or there is room. -/
theorem room_of_listFull {l : List Holding} {x : Station} {k : Byte} {r : Holding} (h : listFull l x k = false)
    (hx : r.station = x) (hk : r.handle = k) : (∃ z ∈ l, z.key = r.key) ∨ l.length < 32 := by
  cases hfound : findHolding x k l with
  | some y => exact .inl (key_of_findHolding hfound hx hk)
  | none =>
    refine .inr (Nat.lt_of_not_le fun hlen => ?_)
    have hfull : listFull l x k = true := by
      simp only [listFull, hfound, Bool.and_eq_true, decide_eq_true_eq]
      exact ⟨hlen, rfl⟩
    rw [h] at hfull
    cases hfull

theorem contestIf_stays (p : Prop) [Decidable p] (x : Station) : Stays d (if p then d.contest x else d) := by
  split_ifs
  · exact contest_stays d x
  · exact Stays.refl d

theorem softContest_sound (r : RosterRec) (h : r.Sound) :
    RosterRec.Sound { r with softContests := inc16 r.softContests } :=
  ⟨h.1, h.2.1, inc16_le _ h.2.2.1, h.2.2.2⟩

theorem forcedSeen_sound (r : RosterRec) (h : r.Sound) : RosterRec.Sound { r with forcedSeen := inc16 r.forcedSeen } :=
  ⟨h.1, h.2.1, h.2.2.1, inc16_le _ h.2.2.2⟩

theorem claimApplied_stays (x : Station) (urgent : Bool) (k : Byte) (c : Cls) (t : Target) :
    Stays d (d.claimApplied x urgent k c t) := by
  have hsoft : Stays d (if d.softContest x urgent c
      then d.modRoster x (fun r => { r with softContests := inc16 r.softContests }) else d) := by
    split_ifs
    · exact modRoster_stays d x softContest_sound
    · exact Stays.refl d
  have hstored (e : Dev) : Stays e { e with
      ht.surge := surgeAdd e.now e.ht.surge,
      ht.holdings := if listFull e.ht.holdings x k then e.ht.holdings
        else insertHolding (claimRecord e.now x k c t) e.ht.holdings } := by
    have hsurge : Stays e { e with ht.surge := surgeAdd e.now e.ht.surge } :=
      { Stays.refl _ with ht := fun h => ⟨h.1, surgeAdd_length _ _⟩ }
    cases hfull : listFull e.ht.holdings x k with
    | true => exact hsurge
    | false => exact hsurge.trans (inserted_stays _ rfl (room_of_listFull hfull rfl rfl))
  exact ((hsoft.trans (hstored _)).trans (contestIf_stays _ _ x)).trans (prompt_stays _)

theorem releaseApplied_stays (x : Station) (k : Byte) (o : RelOutcome) : Stays d (d.releaseApplied x k o) := by
  unfold Dev.releaseApplied
  split
  · exact Stays.refl d
  next y hy =>
    have hdropped : Stays d { d with
        ht.holdings := dropHolding x k d.ht.holdings,
        ht.calQueue := if y.cls = Cls.cal then calDrop x d.ht.calQueue else d.ht.calQueue } :=
      { Stays.refl _ with
        table := table_of_view rfl
          (view_filtered (h := d.ht) List.filter_sublist fun h => by
            dsimp only
            split_ifs
            · exact calDrop_nodup _ _ h
            · exact h)
          (ownCount_sublist List.filter_sublist) }
    have hforced (e : Dev) :
        Stays e (if o = .forced then e.modRoster x (fun r => { r with forcedSeen := inc16 r.forcedSeen }) else e) := by
      split_ifs
      · exact modRoster_stays e x forcedSeen_sound
      · exact Stays.refl e
    exact (hdropped.trans (hforced _)).trans (prompt_stays _)

theorem extendTo_key (n : Byte) (y : Holding) : (y.extendTo n).key = y.key := by
  unfold Holding.extendTo
  split <;> rfl

theorem extendTo_isOwn (n : Byte) (y : Holding) : (y.extendTo n).isOwn = y.isOwn := by
  unfold Holding.extendTo Holding.isOwn Holding.part
  cases y.holder <;> rfl

theorem extendApplied_stays (x : Station) (k n : Byte) : Stays d (d.extendApplied x k n) := by
  unfold Dev.extendApplied
  split
  · exact Stays.refl d
  · split_ifs
    · exact { Stays.refl _ with
      table := table_of_view rfl (view_mapped x k (extendTo_key n) d.ht)
                (ownCount_mapped x k (extendTo_isOwn n) _).le }
    · exact Stays.refl d

theorem tableApply_stays (x : Station) (b : Body) : Stays d (d.tableApply x b) := by
  unfold Dev.tableApply
  split
  next =>
    split
    · exact claimApplied_stays d _ _ _ _ _
    · exact Stays.refl d
  next => exact releaseApplied_stays d _ _ _
  next => exact extendApplied_stays d _ _ _
  next => exact { Stays.refl _ with }
  next => exact { Stays.refl _ with }
  next =>
    split
    · exact (applyIntent_stays d _ _ _).trans (prompt_stays _)
    · exact Stays.refl d
  all_goals exact Stays.refl d

theorem dropStation_stays (x : Station) : Stays d (d.dropStation x) := by
  unfold Dev.dropStation
  split_ifs
  · have hdropped : Stays d { d with ht := d.ht.dropStation x } :=
      { Stays.refl _ with
        table := table_of_view rfl (view_filtered (h := d.ht) List.filter_sublist (calDrop_nodup x _))
          (ownCount_sublist List.filter_sublist) }
    exact hdropped.trans (prompt_stays _)
  · exact Stays.refl d
  · exact Stays.refl d

/-! ### The presence controller (R82, R87 to R95, R97) -/

theorem hear_sound (now : Time) (q : Byte) (r : RosterRec) (h : r.Sound) : (r.hear now q).Sound := h

theorem joined_sound (now : Time) (q : Byte) (r : RosterRec) (h : r.Sound) : (r.joined now q).Sound :=
  ⟨Nat.zero_le 2, h.2⟩

theorem countHolding_inRange (t : Tally) (h : t.counted ≤ 2 ∧ t.announced ≤ 3) :
    t.countHolding.counted ≤ 2 ∧ t.countHolding.announced ≤ 3 := by
  unfold Tally.countHolding
  split_ifs
  · exact ⟨(min_le_right _ _).trans (min_le_right _ _), h.2⟩
  · exact h

theorem holdingApplied_stays (x : Station) (k c u t e r : Byte) : Stays d (d.holdingApplied x k c u t e r) := by
  have htally (a : Dev) : Stays a (if a.pc.presence = .syncing then a.modTally x Tally.countHolding else a) := by
    split_ifs
    · exact modTally_stays a x countHolding_inRange
    · exact Stays.refl a
  unfold Dev.holdingApplied
  split
  · exact Stays.refl d
  · split
    · exact Stays.refl d
    · refine Stays.trans (Stays.trans ?_ (htally _)) (prompt_stays _)
      split
      next y hy => exact inserted_stays d rfl (.inl (key_of_findHolding hy rfl rfl))
      next =>
        split_ifs with hroom
        · exact inserted_stays d rfl (.inr hroom)
        · exact contest_stays d x

theorem summarised_inRange (f : Byte) (t : Tally) :
    (t.summarised (f.extractLsb' 4 2).toNat).counted ≤ 2 ∧ (t.summarised (f.extractLsb' 4 2).toNat).announced ≤ 3 :=
  ⟨Nat.zero_le 2, Nat.le_of_lt_succ (f.extractLsb' 4 2).isLt⟩

theorem summaryApplied_stays (x : Station) (f : Byte) (t n : Word16) : Stays d (d.summaryApplied x f t n) := by
  unfold Dev.summaryApplied
  split
  · have hview : Stays d { d with
        ht.pleas := if f.getLsbD 7 then pleaAdd x d.ht.pleas else pleaDrop x d.ht.pleas,
        ht.calQueue := if f.getLsbD 6 then calPlace d.ht.nextTicket x t d.ht.calQueue else calDrop x d.ht.calQueue } :=
      { Stays.refl _ with
        table := table_of_view rfl
          (view_filtered (h := d.ht) (List.Sublist.refl _) fun h => by
            dsimp only
            split_ifs
            · exact calPlace_nodup _ _ _ _ h
            · exact calDrop_nodup _ _ h)
          le_rfl }
    have hnext (e : Dev) : Stays e (match e.pc.window with
        | some w => if w.noSummary then { e with ht.nextTicket := n } else e
        | none => e) := by
      split
      · split_ifs
        · exact { Stays.refl _ with }
        · exact Stays.refl e
      · exact Stays.refl e
    exact (hview.trans (hnext _)).trans (modTally_stays _ x fun t _ => summarised_inRange f t)
  · exact Stays.refl d

theorem mismatch_sound {n : Nat} (hn : n ≤ 2) (r : RosterRec) (h : r.Sound) :
    RosterRec.Sound { r with mismatch := n } :=
  ⟨hn, h.2⟩

theorem beaconApplied_stays (x : Station) (g : Word16) (f : Byte) : Stays d (d.beaconApplied x g f) := by
  unfold Dev.beaconApplied
  dsimp only
  split_ifs with hasked hsame htwice
  · exact modRoster_stays d x (mismatch_sound (Nat.zero_le 2))
  · rw [startResync_modRoster]
    exact startResync_stays d
  · exact modRoster_stays d x (mismatch_sound (Nat.le_of_not_le htwice))
  · exact Stays.refl d

theorem leaveApplied_stays (x : Station) : Stays d (d.leaveApplied x) :=
  ((modRoster_stays d x cleared_sound).trans (excludeTally_stays _ x)).trans (dropStation_stays _ x)

theorem joinApplied_stays (x : Station) (q : Byte) : Stays d (d.joinApplied x q) :=
  (((modRoster_stays d x (joined_sound d.now q)).trans (excludeTally_stays _ x)).trans (dropStation_stays _ x)).trans
    (answerIfDue_stays _)

theorem presenceApply_stays (hd : Head) (b : Body) : Stays d (d.presenceApply hd b) := by
  have hheard : Stays d (d.modRoster hd.station (RosterRec.hear d.now hd.seq)) :=
    modRoster_stays d hd.station (hear_sound d.now hd.seq)
  unfold Dev.presenceApply
  dsimp only
  split
  next => exact joinApplied_stays d _ _
  next => exact hheard.trans (leaveApplied_stays _ _)
  next => exact hheard.trans (beaconApplied_stays _ _ _ _)
  next => exact hheard.trans (answerIfDue_stays _)
  next => exact hheard.trans (summaryApplied_stays _ _ _ _ _)
  next =>
    split_ifs
    · exact hheard.trans (holdingApplied_stays _ _ _ _ _ _ _ _)
    · exact hheard
  all_goals exact hheard

/-! ### The receiver's decision (R35 to R37, R101) -/

theorem applyFrame_stays (hd : Head) (b : Body) : Stays d (Dev.applyFrame hd b d) := by
  have htable : Stays d (if d.pc.presence.keepsView then d.tableApply hd.station b else d) := by
    split_ifs
    · exact tableApply_stays d _ _
    · exact Stays.refl d
  exact (htable.trans (presenceApply_stays _ _ _)).trans (checkAnswers_stays _)

/-- The line and the bus as a frame ends. -/
theorem lineQuiet_stays (l : LineAct) : Stays d { d with biu.busFree := false, biu.line := l } := { Stays.refl _ with }

theorem ownNumber_stays : Stays d d.ownNumber := by
  unfold Dev.ownNumber
  dsimp only
  split_ifs
  · exact lineQuiet_stays d .silent
  · exact (lineQuiet_stays d .silent).trans (configFault_stays _ _)

theorem discardFrame_stays : Stays d d.discardFrame where
  __ := Stays.refl _
  biu := fun h => ⟨h.1, h.2.1, h.2.2.1, h.2.2.2.1, inc16_le _ h.2.2.2.2⟩

theorem receive_stays (hd : Head) (b : Body) : Stays d (d.receive hd b) := by
  have hquiet := lineQuiet_stays d .silent
  have hacked (e : Dev) : Stays e e.driveSlot := { Stays.refl _ with }
  unfold Dev.receive
  dsimp only
  split_ifs
  · exact hquiet
  · exact hquiet.trans (ownNumber_stays _)
  · exact hquiet
  · exact (hquiet.trans (hacked _)).trans (modRoster_stays _ _ fun r h => h)
  · split
    · exact hquiet.trans (configFault_stays _ _)
    · exact (hquiet.trans (hacked _)).trans (applyFrame_stays _ _ _)
  · exact discardFrame_stays d

end Sys2Proof.StandingBounds
end

section
/-! PROOFS. What timers, conditions, requests and other transfers keep, and with them every step (R1 to R3, R61 to R63,
R83, R96, R106 to R109, R119 to R125, R153 to R165, R171 to R173). -/

namespace Sys2Proof.StandingBounds

open Sys2Proof.Machine Sys2Proof.Laws Sys2Proof.ClaimLifeCycle Sys2Proof.JoinResync Sys2Proof.BudgetBus
  Sys2Proof.RetentionDuty Sys2Proof.LocalQueue

variable (d : Dev)

/-! ### Timers of the presence controller and of the holding table (R3, R21, R83, R85, R92) -/

theorem elapseTo_stays (t : Time) : Stays d (d.elapseTo t) where
  __ := Stays.refl _
  ht := fun h => ⟨h.1, (ageSurge_length _ _).trans h.2⟩

theorem listenEnd_stays : Stays d d.listenEnd :=
  (enter_stays _ _).after { Stays.refl _ with }

theorem beaconDue_stays (t : Time) : Stays d (d.beaconDue t) := { Stays.refl _ with }

theorem silenced_sound (r : RosterRec) (h : r.Sound) : RosterRec.Sound { r with state := .silent, mismatch := 0 } :=
  ⟨Nat.zero_le 2, h.2⟩

theorem fallSilent_stays (x : Station) : Stays d (d.fallSilent x) :=
  (((modRoster_stays d x silenced_sound).trans (excludeTally_stays _ x)).trans (dropStation_stays _ x)).trans
    (checkAnswers_stays _)

theorem expirePeer_stays (x : Station) (k : Byte) : Stays d (d.expirePeer x k) where
  __ := Stays.refl _
  table := table_of_view rfl (view_filtered (h := d.ht) List.filter_sublist id) (ownCount_sublist List.filter_sublist)

theorem ageing_stays (t : Time) : Stays d
    { d.elapseTo t with ht.surge := d.ht.surge.tail.filter (fun x => (d.elapseTo t).now ≤ x + surgeTime) } where
  __ := Stays.refl _
  ht := fun h => ⟨h.1, ((List.length_filter_le _ _).trans (by simp)).trans h.2⟩

/-! ### The lease timer and the head timer (R61 to R63, R148) -/

theorem mapPart_key (f : OwnPart → OwnPart) (y : Holding) : (y.mapPart f).key = y.key := by
  unfold Holding.mapPart
  split <;> rfl

theorem mapPart_isOwn (f : OwnPart → OwnPart) (y : Holding) : (y.mapPart f).isOwn = y.isOwn := by
  cases h : y.holder with
  | peer b e => rw [mapPart_peer f h]
  | own p => rw [mapPart_own f h]; simp [Holding.isOwn, Holding.part, h]

theorem modOwn_stays (k : Byte) (f : OwnPart → OwnPart) : Stays d (d.modOwn k f) where
  __ := Stays.refl _
  table := table_of_view rfl (view_mapped _ k (mapPart_key f) d.ht) (ownCount_mapped _ k (mapPart_isOwn f) _).le

theorem placeExtend_stays (k n : Byte) : Stays d { d with biu := d.biu.placeExtend k n } := { Stays.refl _ with }

theorem leaseExpire_stays (k : Byte) (t : Time) : Stays d (d.leaseExpire k t) := by
  unfold Dev.leaseExpire
  split
  · exact Stays.refl d
  · split
    · exact Stays.refl d
    · split_ifs
      · exact ((placeExtend_stays d _ _).trans (modOwn_stays _ _ _)).trans (notify_stays _ _)
      · have hforced (e : Dev) (l : List (Byte × Option Byte)) : Stays e { e with ht.forced := l } :=
          { Stays.refl _ with }
        exact (((modOwn_stays d _ _).trans (hforced _ _)).trans (notify_stays _ _)).trans (placeRelease_stays _ _ _)

theorem headExpire_stays : Stays d d.headExpire := by
  unfold Dev.headExpire
  dsimp only
  split_ifs <;> exact { Stays.refl _ with }

/-! ### Regions (R106 to R109, R119 to R125) -/

/-- Every region keeps its lapse count within 16 bits. -/
theorem regions_stays {r : Rs} (h : ∀ n, (r.regionAt n).lapses = (d.rs.regionAt n).lapses) :
    Stays d { d with rs := r } where
  __ := Stays.refl _
  rs := fun hr n => (h n).trans_le (hr n)

theorem accrue_stays (n : RegionNo) (t : Time) : Stays d (d.accrue n t) := by
  have haccrued : Stays d (d.modRegion n (fun x => { x.accrue with timer := .running (t + d.rs.grade.interval) })) := by
    refine modRegion_stays d n fun r h => ?_
    unfold Region.accrue
    split_ifs
    · exact h
    · exact inc16_le _ h
  have hlapse (p : Prop) [Decidable p] (e : Dev) (x : Notice) : Stays e (if p then e.notify x else e) := by
    split_ifs
    · exact notify_stays e x
    · exact Stays.refl e
  exact (haccrued.trans (hlapse _ _ _)).trans (evalUrgency_stays _)

theorem setupRequest_stays (modes start stop : Byte) : Stays d (d.setupRequest modes start stop) := by
  unfold Dev.setupRequest
  split_ifs
  · exact refuse_stays d _ _ _
  · have hset : Stays d { d with
        rs := { d.rs.exemptRegions modes with startLevel := start.toNat, endLevel := stop.toNat },
        pu.setupLock := true } :=
      { Stays.refl _ with
        rs := fun h n => by
          have hregion : ((d.rs.exemptRegions modes).regionAt n).lapses = (d.rs.regionAt n).lapses := by
            rw [regionAt_exemptRegions]
            split_ifs <;> rfl
          exact hregion.trans_le (h n),
        lock := fun _ => rfl }
    exact hset.trans (evalUrgency_stays _)
  · exact refuse_stays d _ _ _

theorem stopTimer_lapses (now : Time) (x : Region) : (x.stopTimer now).lapses = x.lapses := by rw [stopTimer_timer]

theorem restart_lapses (now : Time) (x : Region) : (x.restart now).lapses = x.lapses := by rw [restart_timer]

theorem raise_lapses (x : Region) : x.raise.lapses = x.lapses := by
  unfold Region.raise
  split_ifs <;> rfl

theorem holdRequest_stays : Stays d d.holdRequest := by
  unfold Dev.holdRequest
  split_ifs
  · exact refuse_stays d _ _ _
  · have hstopped : Stays d { d with rs := { d.rs.stopTimers d.now with hold := true } } :=
      regions_stays d fun n => (congrArg Region.lapses (regionAt_map d.rs _ n)).trans (stopTimer_lapses _ _)
    exact hstopped.trans (callBack_stays _)

theorem resumeRequest_stays : Stays d d.resumeRequest := by
  unfold Dev.resumeRequest
  split_ifs
  · have hraised : Stays d { d with rs := { d.rs with hold := false, regions := d.rs.regions.map Region.raise } } :=
      regions_stays d fun n => (congrArg Region.lapses (regionAt_map d.rs _ n)).trans (raise_lapses _)
    have hrestarted (e : Dev) :
        Stays e { e with rs := { e.rs with regions := e.rs.regions.map (Region.restart e.now) } } :=
      regions_stays e fun n => (congrArg Region.lapses (regionAt_map e.rs _ n)).trans (restart_lapses _ _)
    exact ((hraised.trans (evalUrgency_stays _)).trans (hrestarted _)).trans (prompt_stays _)
  · exact refuse_stays d _ _ _

theorem rateRequest_stays (g : Byte) : Stays d (d.rateRequest g) := by
  unfold Dev.rateRequest
  split
  · exact { Stays.refl _ with }
  · exact refuse_stays d _ _ _

/-! ### The local queue (R153 to R156, R162 to R165) -/

theorem deadlinePass_stays (t : Byte) : Stays d (d.deadlinePass t) := by
  unfold Dev.deadlinePass
  split
  · exact Stays.refl d
  · split_ifs
    · exact modEntry_stays d t fun _ => ⟨rfl, rfl⟩
    · exact dropEntry_stays d _ _

/-- A SUBMIT that is not refused finds a place in the queue and no entry under its tag (R155). -/
theorem room_of_noRefusal {tag cls region : Byte} (h : d.submitRefusal tag cls region = none) :
    d.oqs.queue.length < 8 ∧ ∀ e ∈ d.oqs.queue, e.tag ≠ tag := by
  unfold Dev.submitRefusal at h
  split_ifs at h with _ _ _ _ htag hfull
  refine ⟨Nat.lt_of_not_le hfull, fun e he heq => htag ?_⟩
  exact (tagInUse_iff d tag).mpr (.inl ⟨e, he, heq⟩)

theorem submitRequest_stays (tag cls region : Byte) (notAfter : Word16) :
    Stays d (d.submitRequest tag cls region notAfter) := by
  cases h : d.submitRefusal tag cls region with
  | some r => rw [submitRequest_refused h]; exact notify_stays d _
  | none =>
    obtain ⟨hroom, hfresh⟩ := room_of_noRefusal d h
    have hjoined : Stays d { d with
        oqs.queue := d.oqs.queue ++ [newEntry d.now tag (acceptedClass cls) region notAfter] } :=
      { Stays.refl _ with
        queue := by
          rintro ⟨-, htags, hbypass⟩
          refine ⟨by simpa using hroom, ?_, fun e he => ?_⟩
          · rw [List.map_append]
            refine htags.append (List.nodup_singleton _) fun t ht hnew => ?_
            obtain ⟨e, he, rfl⟩ := List.mem_map.mp ht
            exact hfresh e he (List.mem_singleton.mp hnew)
          · rcases List.mem_append.mp he with he | he
            · exact hbypass e he
            · rw [List.mem_singleton.mp he]
              exact Nat.zero_le 4 }
    rw [submitRequest_accepted h]
    exact (hjoined.trans (notify_stays _ _)).trans (prompt_stays _)

theorem cancelRequest_stays (t : Byte) : Stays d (d.cancelRequest t) := by
  unfold Dev.cancelRequest
  split
  · exact refuse_stays d _ _ _
  · split_ifs
    · unfold Dev.cancelSending
      split
      next c hc =>
        split_ifs
        · exact refuse_stays d _ _ _
        · exact markClaim_stays d hc _
      next => exact refuse_stays d _ _ _
    · exact dropEntry_stays d _ _

/-! ### DONE, LEAVE, REJOIN and QUERY (R64, R65, R73, R96, R98, R181) -/

theorem doneRequest_stays (k o : Byte) : Stays d (d.doneRequest k o) := by
  unfold Dev.doneRequest
  split
  · exact refuse_stays d _ _ _
  · split
    · have hlate (l : List (Byte × Option Byte)) (n : Notice) : Stays d (Dev.notify n { d with ht.forced := l }) :=
        (notify_stays _ n).after { Stays.refl _ with }
      unfold Dev.lateDone
      dsimp only
      split_ifs
      · exact (hlate _ _).trans (prompt_stays _)
      · exact hlate _ _
    · split_ifs
      · exact (modOwn_stays d _ _).trans (placeRelease_stays _ _ _)
      · exact refuse_stays d _ _ _

theorem placeLeave_stays : Stays d { d with biu := d.biu.placeJoin .leave } := { Stays.refl _ with }

theorem leaveRequest_stays : Stays d d.leaveRequest := by
  unfold Dev.leaveRequest
  dsimp only
  split_ifs
  · exact ((enter_stays d _).trans (unstageWaiting_stays _)).trans (placeLeave_stays _)
  · exact (enter_stays d _).trans (unstageWaiting_stays _)
  · exact refuse_stays d _ _ _

theorem rejoinRequest_stays : Stays d d.rejoinRequest := by
  unfold Dev.rejoinRequest
  split_ifs
  · exact (enterListening_stays _).after { Stays.refl _ with }
  · exact refuse_stays d _ _ _

theorem queryRequest_stays (t p : Byte) : Stays d (d.queryRequest t p) := by
  have hbuilt : Stays d (d.built t.toNat) := by
    unfold Dev.built
    split_ifs <;> exact { Stays.refl _ with }
  unfold Dev.queryRequest
  split_ifs
  · exact hbuilt.trans (notify_stays _ _)
  · exact refuse_stays d _ _ _

theorem takeRequest_stays (r : Request) : Stays d (d.takeRequest r) := by
  cases r
  case setup => exact setupRequest_stays d _ _ _
  case submit => exact submitRequest_stays d _ _ _ _
  case cancel => exact cancelRequest_stays d _
  case done => exact doneRequest_stays d _ _
  case rate => exact rateRequest_stays d _
  case hold => exact holdRequest_stays d
  case resume => exact resumeRequest_stays d
  case query => exact queryRequest_stays d _ _
  case leave => exact leaveRequest_stays d
  case rejoin => exact rejoinRequest_stays d

/-! ### Other transfers (R170 to R173) -/

theorem quietSdo_stays : Stays d d.quietSdo := { Stays.refl _ with }

theorem malformed_stays : Stays d { d with pu.malformed := inc16 d.pu.malformed } where
  __ := Stays.refl _
  pu := fun h => ⟨h.1, inc16_le _ h.2⟩

theorem discardPut_stays : Stays d d.discardPut where
  __ := Stays.refl _
  pu := (malformed_stays d).pu

theorem take_stays (n : TakeClocks) : Stays d (d.take n) := by
  unfold Dev.take
  split
  · exact { Stays.refl _ with }
  · dsimp only
    split_ifs <;> exact { Stays.refl _ with }

theorem takeEnds_stays : Stays d { d with pu := d.pu.endTake } := { Stays.refl _ with }

/-! ### The resets (R84, R103) -/

theorem held_rosterAt (k : ResetKind) (x : Station) : (Dev.held k).pc.rosterAt x = RosterRec.fresh := by
  simp [Dev.held, Pc.rosterAt]

theorem held_bounded (k : ResetKind) : (Dev.held k).Bounded := by
  refine (bounded_iff _).mpr ⟨?_, ?_, ⟨Nat.zero_le _, fun x => ?_, nofun⟩, fun n => ?_, ?_, ?_⟩
  · exact ⟨Nat.zero_le _, Nat.zero_le _, Nat.zero_le _, Nat.zero_le _, Nat.zero_le _⟩
  · exact ⟨Nat.zero_le _, Nat.zero_le _⟩
  · rw [held_rosterAt]
    exact ⟨Nat.zero_le _, Nat.zero_le _, Nat.zero_le _, Nat.zero_le _⟩
  · rw [regionAt_held]
    exact Nat.zero_le _
  · exact ⟨Nat.zero_le _, List.nodup_nil, nofun⟩
  · exact ⟨Nat.zero_le _, Nat.zero_le _⟩

theorem held_table (k : ResetKind) : (Dev.held k).TableSound :=
  ⟨List.Pairwise.nil, Nat.zero_le _, nofun, Nat.zero_le _, List.nodup_nil⟩

theorem release_bounded (sid : BitVec 4) (pins : ReleasePins) (h : d.Bounded) : (d.release sid pins).Bounded := by
  obtain ⟨hbiu, hht, hpc, hrs, hqueue, hpu⟩ := (bounded_iff d).mp h
  refine (bounded_iff _).mpr ⟨hbiu, hht, hpc, fun n => ?_, hqueue, push_inRange { d.pu with csLow := pins.csLow } _ hpu⟩
  have hregion : (d.release sid pins).rs.regionAt n = (d.rs.regionAt n).startTimer (d.now + staggered n.toNat) :=
    regionAt_startTimers d.now d.rs n
  rw [hregion, startTimer_timer]
  exact hrs n

/-! ### Every step -/

/-- What every effect leaves of a property, the effects of every command leave of it. -/
theorem keeps_of_stays {P : Dev → Prop} (hP : ∀ a b, Stays a b → P a → P b) (held : ∀ k, P (Dev.held k))
    (release : ∀ sid pins d, P d → P (Dev.release sid pins d)) : Keeps P where
  held := held
  release := release
  elapseTo t d := hP _ _ (elapseTo_stays d t)
  close b d := hP _ _ (close_stays d b)
  ignored d := hP d _ { Stays.refl _ with }
  busFree d := hP _ _ (busFree_stays d)
  arbitrationLost d := hP _ _ (arbitrationLost_stays d)
  bitError d := hP _ _ (bitError_stays d)
  sendComplete acks d := hP _ _ (sendComplete_stays d acks)
  receive hd b d := hP _ _ (receive_stays d hd b)
  discardFrame d := hP _ _ (discardFrame_stays d)
  ownNumber d := hP _ _ (ownNumber_stays d)
  listenEnd d := hP _ _ (listenEnd_stays d)
  enterMember d := hP _ _ (enterMember_stays d)
  beaconDue t d := hP _ _ (beaconDue_stays d t)
  fallSilent x d := hP _ _ (fallSilent_stays d x)
  expirePeer x k d := hP _ _ (expirePeer_stays d x k)
  ageing t d := hP _ _ (ageing_stays d t)
  leaseExpire k t d := hP _ _ (leaseExpire_stays d k t)
  accrue n t d h _ := hP _ _ (accrue_stays d n t) h
  headExpire d := hP _ _ (headExpire_stays d)
  prompt d := hP _ _ (prompt_stays d)
  deadlinePass t d := hP _ _ (deadlinePass_stays d t)
  placeLeave d := hP _ _ (placeLeave_stays d)
  recover d := hP _ _ (recover_stays d)
  quietSdo d := hP _ _ (quietSdo_stays d)
  request r d := hP _ _ (takeRequest_stays d r)
  discardPut d := hP _ _ (discardPut_stays d)
  malformed d := hP _ _ (malformed_stays d)
  take n d := hP _ _ (take_stays d n)
  peek _ d := hP d _ { Stays.refl _ with }
  endTake d := hP _ _ (takeEnds_stays d)

/-- Settles O9: each effect keeps the table in order; an own record joins it in place of the claim that stood open. -/
theorem holdingTableInvariantKept : Obligations.HoldingTableInvariantKept :=
  fun _ _ h hstep => (keeps_of_stays (fun _ _ hs => hs.table) held_table fun _ _ _ h => h).step h hstep

/-- Settles O11: each effect keeps each count and list in its range. -/
theorem countersAndListsStayInRange : Obligations.CountersAndListsStayInRange :=
  fun _ _ h hstep => (keeps_of_stays (fun _ _ hs => hs.bounded) held_bounded fun sid pins d =>
    release_bounded d sid pins).step h hstep

end Sys2Proof.StandingBounds
end

section
/-! PROOFS. What the two resets leave: every item of the reset tables, and every invariant (R9, R47, R103, R127, R138,
R152, R169, R184). -/

namespace Sys2Proof.ResetTables

open Sys2Proof.Machine Sys2Proof.Laws Sys2Proof.JoinResync Sys2Proof.RetentionDuty Sys2Proof.ControllerPort
  Sys2Proof.StandingBounds

/-- The urgency state that follows each reset (R127). -/
def resetUrgency : ResetKind → Urgency
  | .powerOn => .normal
  | .line => .urgent

theorem held_resetItems (k : ResetKind) : (Dev.held k).ResetItems (resetDebt k) (resetUrgency k) := by
  have regions (n : RegionNo) : ((Dev.held k).rs.regionAt n).exempt = false ∧
      ((Dev.held k).rs.regionAt n).debt = resetDebt k ∧ ((Dev.held k).rs.regionAt n).pointer = 0#3 ∧
      ((Dev.held k).rs.regionAt n).lapses = 0 ∧ ((Dev.held k).rs.regionAt n).stagedRfb = false := by
    rw [regionAt_held]
    exact ⟨rfl, rfl, rfl, rfl, rfl⟩
  have urgency : (Dev.held k).rs.urgency = resetUrgency k := by cases k <;> rfl
  refine ⟨?_, ?_, ⟨rfl, held_rosterAt k, ?_⟩, ⟨regions, rfl, rfl, rfl, rfl, urgency, rfl⟩, ⟨rfl, rfl⟩, ?_⟩
  · exact ⟨rfl, rfl, rfl, rfl, rfl, rfl, rfl, rfl, rfl, rfl⟩
  · exact ⟨rfl, rfl, rfl, rfl, rfl, rfl, rfl, rfl, rfl, rfl⟩
  · exact ⟨rfl, rfl, rfl, rfl, rfl, rfl⟩
  · exact ⟨rfl, rfl, rfl, rfl, rfl, rfl, rfl, rfl⟩

/-- No own holding, no claim and no frame in hand: every place is empty. -/
theorem held_places (k : ResetKind) : (Dev.held k).PlacesSound := by
  refine ⟨held_table k, fun _ => rfl, nofun, nofun, List.nodup_nil, Nat.zero_le 2, nofun, ?_, ?_⟩
  · exact ⟨List.nodup_nil, nofun, nofun⟩
  · exact ⟨List.nodup_nil, nofun⟩

/-- Settles O3: each reset leaves the part held, whatever it was. -/
theorem resetsSetEveryBlock : Obligations.ResetsSetEveryBlock := by
  refine ⟨fun s => ⟨?_, ?_⟩, held_resetItems .powerOn, rfl⟩
  · exact ⟨Dev.held .powerOn, rfl, held_resetItems .powerOn, rfl⟩
  · exact ⟨Dev.held .line, rfl, held_resetItems .line, rfl⟩

/-- Settles O12. -/
theorem resetStateMeetsEveryInvariant : Obligations.ResetStateMeetsEveryInvariant :=
  ⟨fun k => ⟨held_port k, held_sound k, held_table k, held_places k, held_bounded k⟩, rfl⟩

end Sys2Proof.ResetTables
end

section
/-! PROOFS. The admission test, condition by condition, and the first that fails (R10 to R14). -/

namespace Sys2Proof.Admission

open Sys2Proof.Machine Sys2Proof.Laws Sys2Proof.RetentionDuty

variable (d : Dev) (c : Cls) (r : RegionNo)

/-! ### The conditions one by one (R11 to R14) -/

theorem a1_iff : d.a1 = true ↔ d.pc.presence = .member ∧ d.ht.forced = [] := by
  simp [Dev.a1, Dev.quarantined]

theorem a2_iff : d.a2 c r = true ↔ d.ownHoldings.length < 2 ∧
    (c = .rfb → ∀ h ∈ d.ownHoldings, h.cls = .rfb → h.target.region ≠ r) := by
  have own : (d.ownRfb? r).isSome = false ↔ ∀ h ∈ d.ownHoldings, h.cls = .rfb → h.target.region ≠ r := by
    simp [Dev.ownRfb?]
  unfold Dev.a2 Dev.a2Station
  rw [Bool.and_eq_true, decide_eq_true_eq, Bool.not_eq_true', Bool.and_eq_false_imp, beq_iff_eq, own]

theorem a3_iff : d.a3 = true ↔ d.ht.surge.length < 12 := decide_eq_true_iff

theorem a4_iff : d.a4 c = true ↔
    if c = .rfb ∧ d.rs.urgency = .urgent then (c.units : Int) ≤ d.free else (c.units : Int) ≤ d.free - 4 := by
  have kind : d.urgentClaim c = true ↔ c = .rfb ∧ d.rs.urgency = .urgent := by simp [Dev.urgentClaim]
  unfold Dev.a4
  simp only [kind]
  split_ifs <;> exact decide_eq_true_iff

theorem a5_iff : d.a5 c r = true ↔ (∀ s, inMask d.ht.pleas s = true → s = d.pc.station) ∨
    (c = .rfb ∧ 1 ≤ (d.rs.regionAt r).debt) := by
  unfold Dev.a5
  rw [Bool.or_eq_true, Bool.not_eq_true', otherPlea_iff, Bool.and_eq_true, beq_iff_eq, decide_eq_true_eq]

theorem isHead_iff : d.isHead = true ↔ ∃ t rest, d.ht.calQueue = (d.pc.station, t) :: rest := by
  unfold Dev.isHead
  cases h : d.ht.calQueue with
  | nil => simp
  | cons e es => obtain ⟨x, t⟩ := e; simp

theorem calRecords_zero_iff (l : List Holding) : calRecords l = 0 ↔ ∀ h ∈ l, h.cls ≠ .cal := by
  simp [calRecords]

theorem a6_iff : d.a6 c = true ↔ (c = .cal → (∀ h ∈ d.ht.holdings, h.cls ≠ .cal) ∧
    ∃ t rest, d.ht.calQueue = (d.pc.station, t) :: rest) := by
  unfold Dev.a6
  rw [Bool.or_eq_true, Bool.not_eq_true', beq_eq_false_iff_ne, Bool.and_eq_true, beq_iff_eq, calRecords_zero_iff,
    isHead_iff, imp_iff_not_or]

theorem a7_iff : d.a7 = true ↔ d.pu.notices.length ≤ 12 := by
  unfold Dev.a7 Config.noticeCap
  rw [decide_eq_true_eq]
  omega

theorem a8_iff : d.a8 = true ↔ d.rs.hold = false := by
  simp [Dev.a8]

/-! ### The first condition that fails (R10) -/

/-- Settles O14: each condition read off its definition, and the first that fails by the cases of the test. -/
theorem admissionTestAsksEightConditions : Obligations.AdmissionTestAsksEightConditions := by
  intro d c r
  refine ⟨a1_iff d, a2_iff d c r, a5_iff d c r, a6_iff d c, a7_iff d, a8_iff d, ?_⟩
  unfold Dev.firstFail
  split_ifs <;> simp_all

/-! ### The rail (R8, R12) -/

theorem free_eq {u : Nat} (hb : d.pc.budget = 1#2) (hu : heldUnits d.ht.holdings = u) : d.free = 24 - (u : Int) := by
  unfold Dev.free Dev.units
  rw [hb, hu]
  rfl

theorem a4_local {c : Cls} (hc : c ≠ .rfb) : d.a4 c = true ↔ (c.units : Int) ≤ d.free - 4 := by
  rw [a4_iff, if_neg fun h => hc h.1]

theorem a4_refresh : d.a4 .rfb = true ↔ if d.rs.urgency = .urgent then 3 ≤ d.free else 3 ≤ d.free - 4 := by
  rw [a4_iff]
  simp [Cls.units]

/-- Settles O15: with 15 units held 9 are free, and with 21 only 3, so that the reserve leaves none. -/
theorem railConditionsCountStartsAndUnits : Obligations.RailConditionsCountStartsAndUnits := by
  refine ⟨a3_iff, a4_iff, fun d hb hu => ?_, fun d hb hu => ?_, fun d c r h => ?_⟩
  · have hfree := free_eq d hb hu
    refine ⟨hfree, ?_, ?_, ?_⟩
    · rw [a4_refresh, hfree]; split_ifs <;> decide
    · rw [a4_local d (by decide), hfree]; decide
    · rw [← Bool.not_eq_true, a4_local d (by decide), hfree]; decide
  · have hfree := free_eq d hb hu
    refine ⟨hfree, ?_, ?_, ?_, ?_⟩
    · rw [a4_refresh, hfree]; simp
    · rw [← Bool.not_eq_true, a4_local d (by decide), hfree]; decide
    · rw [← Bool.not_eq_true, a4_local d (by decide), hfree]; decide
    · rw [← Bool.not_eq_true, a4_local d (by decide), hfree]; decide
  · obtain ⟨-, -, -, -, -, -, passes, -⟩ := admissionTestAsksEightConditions d c r
    rw [ne_eq, passes]
    rcases h with h | h <;> simp [h]

end Sys2Proof.Admission
end

section
/-! PROOFS. The canonical listing of the replica and its CRC (R25). -/

namespace Sys2Proof.Digest

open Sys2Proof.Machine Sys2Proof.BudgetBus

/-- A set of stations is known by its members. -/
theorem mask_ext {a b : BitVec 16} (h : ∀ x, inMask a x = true ↔ inMask b x = true) : a = b := by
  refine BitVec.eq_of_getLsbD_eq fun i hi => ?_
  have hn : (BitVec.ofNat 4 i).toNat = i := by rw [BitVec.toNat_ofNat]; omega
  have hx := h (BitVec.ofNat 4 i)
  unfold inMask at hx
  rw [hn] at hx
  exact Bool.eq_iff_iff.mpr hx

/-- The set of one station alone. -/
theorem mask_single {m : BitVec 16} {y : Station} (h : ∀ x, inMask m x = true ↔ x = y) : m = maskBit y :=
  mask_ext fun x => (h x).trans (inMask_maskBit y x).symm

/-- A further byte goes into the digest CRC bit by bit, the most significant first. -/
theorem crc16_append_byte (bs : List Byte) (b : Byte) : crc16 (bs ++ [b]) =
    (List.range 8).foldl (fun r i => crc16Bit r (b.getLsbD (7 - i))) (crc16 bs) := by
  rw [crc16, List.flatMap_append, List.foldl_append, List.flatMap_singleton, byteBits_eq, List.foldl_map, ← crc16]

/-- A record is listed by its station, its handle and its class alone. -/
def recordListing (k : Station × Byte × Cls) : List Byte := [k.1.setWidth 8, k.2.1, k.2.2.code, nat8 k.2.2.units]

/-- The listing reads the keys and classes of the records, the plea mask and the queued stations. -/
theorem listing_eq (t : Ht) : t.listing =
    (t.holdings.map (fun h => (h.station, h.handle, h.cls))).flatMap recordListing ++ be16 t.pleas ++
      (t.calQueue.map Prod.fst).map (fun x => x.setWidth 8) := by
  unfold Ht.listing
  rw [List.flatMap_map, List.map_map]
  rfl

theorem workedListing {t : Ht}
    (hrecords : t.holdings.map (fun h => (h.station, h.handle, h.cls)) = [(5#4, 9#8, Cls.rfb), (12#4, 1#8, Cls.cal)])
    (hpleas : ∀ x, inMask t.pleas x = true ↔ x = 12#4) (hqueue : t.calQueue.map Prod.fst = [12#4, 2#4]) :
    t.listing = [0x05, 0x09, 0x00, 0x03, 0x0C, 0x01, 0x01, 0x02, 0x10, 0x00, 0x0C, 0x02] := by
  rw [listing_eq, hrecords, mask_single hpleas, hqueue]
  decide

/-- Settles O60. -/
theorem digestIsTheCrcOfTheListing : Obligations.DigestIsTheCrcOfTheListing := by
  refine ⟨fun t => rfl, fun bs b => ⟨rfl, crc16_append_byte bs b⟩, fun t => workedListing, fun a b hr hp hq => ?_⟩
  unfold Ht.digest
  rw [listing_eq, listing_eq, hr, hp, hq]

end Sys2Proof.Digest
end

section
/-! PROOFS. What the frames that the BIU offers carry, taken as the part stands (R26, R43, R74, R85, R88, R92, R141,
R186). -/

namespace Sys2Proof.OwnContent

open Sys2Proof.Machine Sys2Proof.Laws Sys2Proof.ControllerPort

/-! ### Flags and targets (R186) -/

theorem beaconFlags_fields (syncing : Bool) (budget : BitVec 2) :
    (beaconFlags syncing budget).getLsbD 7 = syncing ∧ (beaconFlags syncing budget).extractLsb' 2 5 = 0 ∧
      (beaconFlags syncing budget).extractLsb' 0 2 = budget := by
  revert syncing budget
  decide

theorem summaryFlags_fields (plea cal : Bool) {count : Nat} (hc : count ≤ 2) (budget : BitVec 2) :
    (summaryFlags plea cal count budget).getLsbD 7 = plea ∧ (summaryFlags plea cal count budget).getLsbD 6 = cal ∧
      ((summaryFlags plea cal count budget).extractLsb' 4 2).toNat = count ∧
      (summaryFlags plea cal count budget).extractLsb' 2 2 = 0 ∧
      (summaryFlags plea cal count budget).extractLsb' 0 2 = budget := by
  have bounded : ∀ (n : Fin 3) (plea cal : Bool) (budget : BitVec 2),
      (summaryFlags plea cal n budget).getLsbD 7 = plea ∧ (summaryFlags plea cal n budget).getLsbD 6 = cal ∧
        ((summaryFlags plea cal n budget).extractLsb' 4 2).toNat = n ∧
        (summaryFlags plea cal n budget).extractLsb' 2 2 = 0 ∧
        (summaryFlags plea cal n budget).extractLsb' 0 2 = budget := by decide
  exact bounded ⟨count, Nat.lt_succ_of_le hc⟩ plea cal budget

theorem targetOf_targetByte (t : Target) : Target.ofByte t.byte = t := by
  obtain ⟨region, group⟩ := t
  revert region group
  decide

/-! ### BEACON, SUMMARY and HOLDING (R74, R88, R92) -/

section Frames

variable {d : Dev}

theorem offerBeacon_placed {c : OutFrame Unit} (h : d.biu.outbox.beacon.content = some c) :
    d.offerBeacon = some { ref := .beacon, body := d.beaconBody, seq := c.seq } := by
  simp [Dev.offerBeacon, h]

theorem offerSummary_placed {q : Option Byte} (h : d.biu.outbox.answer.group.summary = some q) :
    d.offerSummary = some { ref := .summary, body := d.summaryBody, seq := q } := by
  simp [Dev.offerSummary, h]

theorem offerHolding_waits {q : Option Byte} (h : d.biu.outbox.answer.group.summary = some q) :
    d.offerHolding = none := by
  simp [Dev.offerHolding, h]

theorem offerHolding_first {f : OutFrame Byte} {rest : List (OutFrame Byte)} {x : Holding} {p : OwnPart}
    (hs : d.biu.outbox.answer.group.summary = none) (hl : d.biu.outbox.answer.group.holdings = f :: rest)
    (hx : d.ownHolding? f.body = some x) (hp : x.holder = .own p) :
    d.offerHolding = some { ref := .holding f.body, body := d.holdingBody x p, seq := f.seq } := by
  have hpart : x.part = some p := by simp [Holding.part, hp]
  simp [Dev.offerHolding, hs, hl, hx, hpart]

/-! ### INTENT, JOIN and LEAVE (R85, R141) -/

theorem offerIntent_elsewhere (h : d.pc.presence ≠ .member) : d.offerIntent = none := if_neg h

theorem offerIntent_member {c : OutFrame IntentAction} (hp : d.pc.presence = .member)
    (h : d.biu.outbox.intent.content = some c) :
    d.offerIntent = some { ref := .intent, body := d.intentBody c.body, seq := c.seq } := by
  simp [Dev.offerIntent, hp, h]

theorem offerJoin_join {c : OutFrame JoinKind} (h : d.biu.outbox.joinLeave.content = some c) (hc : c.body = .join) :
    d.offerJoin .join = some { ref := .joinLeave, body := .join (d.pc.budget.setWidth 8) 1, seq := c.seq } ∧
      d.offerJoin .leave = none := by
  simp [Dev.offerJoin, h, hc]

theorem offerJoin_leave {c : OutFrame JoinKind} (h : d.biu.outbox.joinLeave.content = some c) (hc : c.body = .leave) :
    d.offerJoin .leave = some { ref := .joinLeave, body := .leave, seq := c.seq } ∧ d.offerJoin .join = none := by
  simp [Dev.offerJoin, h, hc]

end Frames

/-- A slot that holds nothing offers nothing. -/
theorem emptySlots_offer_nothing (d : Dev) : (d.biu.outbox.beacon.content = none → d.offerBeacon = none) ∧
    (d.biu.outbox.intent.content = none → d.offerIntent = none) ∧
    (d.biu.outbox.answer.group.summary = none → d.offerSummary = none) ∧
    (d.biu.outbox.answer.group.holdings = [] → d.offerHolding = none) ∧
    (d.biu.outbox.joinLeave.content = none → ∀ k, d.offerJoin k = none) := by
  refine ⟨fun h => ?_, fun h => ?_, fun h => ?_, fun h => ?_, fun h k => ?_⟩
  · simp [Dev.offerBeacon, h]
  · simp [Dev.offerIntent, h]
  · simp [Dev.offerSummary, h]
  · simp [Dev.offerHolding, h]
  · simp [Dev.offerJoin, h]

/-! ### RELEASE, EXTEND, PLEA, CLEAR and RESYNC (R42) -/

section Placed

variable {o : Outbox}

theorem offerRelease_first {r : RelFrame} {rest : List RelFrame} (h : o.release = r :: rest) :
    o.offerRelease = some { ref := .release r.handle, body := .release r.handle r.outcome.code, seq := r.seq } := by
  simp [Outbox.offerRelease, h]

theorem offerExtend_first {e : ExtFrame} {rest : List ExtFrame} {c : OutFrame Byte} (h : o.extend = e :: rest)
    (hc : e.slot.content = some c) :
    o.offerExtend = some { ref := .extend e.handle, body := .extend e.handle c.body, seq := c.seq } := by
  simp [Outbox.offerExtend, h, hc]

theorem offerPlea_placed {c : OutFrame PleaKind} (h : o.plea.content = some c) : o.offerPlea =
    some { ref := .plea, body := (match c.body with | .plea => .plea | .clear => .clear), seq := c.seq } := by
  unfold Outbox.offerPlea
  rw [h]
  rfl

theorem offerResync_placed {c : OutFrame Unit} (h : o.resync.content = some c) :
    o.offerResync = some { ref := .resync, body := .resync, seq := c.seq } := by
  simp [Outbox.offerResync, h]

end Placed

/-- Settles O25. -/
theorem ownFramesCarryTheStateAsItStands : Obligations.OwnFramesCarryTheStateAsItStands := by
  refine ⟨fun d c hc => ?_, fun d q hq hcount => ?_, fun d f rest h p hs hl hx hp => offerHolding_first hs hl hx hp,
    fun t => ⟨targetByte_toNat t, targetOf_targetByte t⟩, fun d c hc => ⟨offerIntent_elsewhere, fun hp => ?_⟩,
    fun d c hc => ⟨offerJoin_join hc, offerJoin_leave hc⟩, fun o => ⟨fun r rest h => ?_,
      fun e rest c => offerExtend_first, fun c => offerPlea_placed, fun c => offerResync_placed, fun h => ?_,
      fun h => ?_, fun h => ?_, fun h => ?_⟩,
    emptySlots_offer_nothing⟩
  · obtain ⟨hsyncing, hspare, hbudget⟩ :=
      beaconFlags_fields (d.pc.presence == .syncing || d.pc.presence == .linkFault) d.pc.budget
    refine ⟨_, offerBeacon_placed hc, ?_, hspare, hbudget⟩
    rw [hsyncing]
    simp
  · obtain ⟨hplea, hcal, hnumber, hspare, hbudget⟩ := summaryFlags_fields (inMask d.ht.pleas d.pc.station)
      (d.ht.calEntry? d.pc.station).isSome hcount d.pc.budget
    exact ⟨_, offerSummary_placed hq, offerHolding_waits hq, hplea, hcal, hnumber, hspare, hbudget⟩
  · rw [offerIntent_member hp hc]
    unfold Dev.intentBody
    cases c.body <;> rfl
  · rw [offerRelease_first h]
    cases r.outcome <;> rfl
  · simp [Outbox.offerRelease, h]
  · simp [Outbox.offerExtend, h]
  · simp [Outbox.offerPlea, h]
  · simp [Outbox.offerResync, h]

end Sys2Proof.OwnContent
end

section
/-! PROOFS. Every effect that a command can have, with the conditions under which it has it, said once: a relation
between the part before and after that each effect meets is met by the command (logs 4, 5, 11). -/

namespace Sys2Proof.Effects

open Sys2Proof.Machine Sys2Proof.Laws

/-! ### The effects -/

/-- What any command can bring beside its effect: time, the close of a step, the end of a TAKE or of an ignored
transfer, and what SDO carried. -/
inductive Passes : Dev → Dev → Prop
  | time (t : Time) (d : Dev) : Passes d (d.elapseTo t)
  | close (b d : Dev) : Passes d (Dev.close b d)
  | prompt (d : Dev) : Passes d d.prompt
  | takeEnds (d : Dev) : Passes d { d with pu := d.pu.endTake }
  | ignored (d : Dev) : Passes d { d with pu.csLow := false, pu.sdo := .highZ }
  | shown (l : SdoOut) (d : Dev) : Passes d { d with pu.sdo := l }

/-- Whether a command brings a request: its own, or one that the bytes of its PUT spell (R171, R175). -/
def Brings (c : Instr) (r : Request) : Prop :=
  match c with
  | .setup _ m a b => r = .setup m a b
  | .submit _ t k g n => r = .submit t k g n
  | .cancel _ t => r = .cancel t
  | .done _ h o => r = .done h o
  | .rate _ g => r = .rate g
  | .hold _ => r = .hold
  | .resume _ => r = .resume
  | .queryStation _ p => r = .query 0 p
  | .queryRegions _ p => r = .query 1 p
  | .queryTable _ p => r = .query 2 p
  | .queryRoster _ p => r = .query 3 p
  | .queryQueue _ p => r = .query 4 p
  | .queryCounters _ p => r = .query 5 p
  | .leaveRequest _ => r = .leave
  | .rejoin _ => r = .rejoin
  | .putMalformed _ bytes => Request.ofPut bytes = some r
  | _ => False

/-- The effects of a command, each under its condition. -/
inductive Effect : Instr → Dev → Dev → Prop
  | powerOnReset (d : Dev) : Effect .powerOnReset d (Dev.held .powerOn)
  | lineReset (d : Dev) : Effect .lineReset d (Dev.held .line)
  | release {dt : Time} {sid : BitVec 4} {pins : ReleasePins} {d : Dev} (h : d.pc.presence = .offline) :
      Effect (.resetRelease dt sid pins) d (d.release sid pins)
  | busFree {dt : Time} {d : Dev} (h : d.biu.attempting = false) : Effect (.busFree dt) d d.busFree
  | arbitrationLost {dt : Time} {d : Dev} (h : d.biu.attempting = true) :
      Effect (.arbitrationLoss dt) d d.arbitrationLost
  | bitError {dt : Time} {d : Dev} (h : d.biu.attempting = true) : Effect (.bitError dt) d d.bitError
  | sendComplete {dt : Time} {acks : AckBytes} {d : Dev} (h : d.biu.attempting = true) :
      Effect (.sendComplete dt acks) d (d.sendComplete (ackSlots acks.first acks.second))
  | discardFrame (c : Instr) (d : Dev) : Effect c d d.discardFrame
  | receive (c : Instr) (hd : Head) (b : Body) (d : Dev) : Effect c d (d.receive hd b)
  | ownNumber {dt : Time} (d : Dev) : Effect (.frameBearingOwnNumber dt) d d.ownNumber
  | listenEnd {d : Dev} {t : Time} (h : d.pc.listenEnds = some t) : Effect .listenTimerExpiry d d.listenEnd
  | collectEnd {d : Dev} {w : Window} (h : d.pc.window = some w) : Effect .collectTimerExpiry d d.enterMember
  | beaconDue {d : Dev} {t : Time} (h : d.pc.beaconEnds = some t) : Effect .beaconTimerExpiry d (d.beaconDue t)
  | fallSilent {d : Dev} {x : Station} {t : Time} (h : d.silenceAt x = some t) : Effect (.silence x) d (d.fallSilent x)
  | expirePeer (x : Station) (k : Byte) (d : Dev) : Effect (.peerExpiry x k) d (d.expirePeer x k)
  | ageing (l : List Time) (d : Dev) : Effect .surgeEntryAgeing d { d with ht.surge := l }
  | leaseExpire (k : Byte) (t : Time) (d : Dev) : Effect (.leaseTimerExpiry k) d (d.leaseExpire k t)
  | accrue (r : RegionNo) (t : Time) (d : Dev) : Effect (.accrualTimerExpiry r) d (d.accrue r t)
  | headExpire (d : Dev) : Effect .headTimerExpiry d d.headExpire
  | deadlinePass (t : Byte) (d : Dev) : Effect (.deadlinePasses t) d (d.deadlinePass t)
  | placeLeave {d : Dev} (h : d.pc.presence = .leaving) :
      Effect .ownHoldingsDrained d { d with biu := d.biu.placeJoin .leave }
  | recover {d : Dev} (h : d.pc.presence = .linkFault) : Effect .linkFaultRecovery d d.recover
  | request {c : Instr} {r : Request} (d : Dev) (h : Brings c r) : Effect c d (d.takeRequest r)
  | discardPut (c : Instr) (d : Dev) : Effect c d d.discardPut
  | malformed (c : Instr) (d : Dev) : Effect c d { d with pu.malformed := inc16 d.pu.malformed }
  | take (c : Instr) (n : TakeClocks) (d : Dev) : Effect c d (d.take n)

/-! ### A relation that every effect meets -/

/-- A relation that holds of nothing done and of one thing done after another, that whatever any command can bring
meets, and that the effects of this command meet from a part whose presence controller stands as the command found
it. -/
structure Within (c : Instr) (p : Pc) (R : Dev → Dev → Prop) : Prop where
  refl : ∀ d, R d d
  trans : ∀ {a b e : Dev}, R a b → R b e → R a e
  passes : ∀ {a b : Dev}, Passes a b → R a b
  effect : ∀ {a b : Dev}, a.pc = p → Effect c a b → R a b

section

variable {c : Instr} {p : Pc} {R : Dev → Dev → Prop}

theorem Within.elapse (w : Within c p R) (dt : Time) (d : Dev) : R d (d.elapse dt) := w.passes (.time _ d)

theorem Within.quiet (w : Within c p R) (d : Dev) : R d d.quietSdo := w.passes (.shown _ d)

theorem Within.act (w : Within c p R) (can : Dev → Bool) (eff : Dev → Dev) (d : Dev)
    (he : can d = true → R d (eff d)) : R d (Dev.act can eff d) := by
  unfold Dev.act
  split_ifs with h
  · exact w.trans (he (Bool.and_eq_true_iff.mp h).2) (w.passes (.close _ _))
  · exact w.refl d

/-- A command from outside: its time passes, and its event acts. -/
theorem Within.outside (w : Within c p R) {d : Dev} (hp : d.pc = p) (dt : Time) (can : Dev → Bool) (eff : Dev → Dev)
    (he : ∀ a : Dev, a.pc = p → can a = true → R a (eff a)) : R d (Dev.act can eff (d.elapse dt)) :=
  w.trans (w.elapse dt d) (w.act _ _ _ (he _ hp))

/-- The end of a timer. -/
theorem Within.atEnd (w : Within c p R) {d : Dev} (hp : d.pc = p) {timer : Option Time} {eff : Dev → Dev}
    (he : ∀ (t : Time) (a : Dev), timer = some t → a.pc = p → R a (eff a)) : R d (Dev.actAt timer eff d) := by
  unfold Dev.actAt
  split
  next t => exact w.trans (w.passes (.time t d)) (w.act _ _ _ fun _ => he t _ rfl hp)
  next => exact w.refl d

theorem Within.endTake (w : Within c p R) (d : Dev) : R d d.endTake := by
  unfold Dev.endTake
  split_ifs
  · exact w.refl d
  · exact w.trans (w.trans (w.passes (.takeEnds d)) (w.passes (.prompt _))) (w.passes (.close _ _))

theorem endTake_pc (d : Dev) : d.endTake.pc = d.pc := by
  unfold Dev.endTake
  split_ifs
  · rfl
  · rw [close_pc]; rfl

theorem Within.onPort (w : Within c p R) {d : Dev} (hp : d.pc = p) (dt : Time) (eff : Dev → Dev)
    (he : ∀ a : Dev, a.pc = p → R a (eff a)) : R d ((d.elapse dt).onPort eff) := by
  refine w.trans (w.elapse dt d) ?_
  unfold Dev.onPort
  split_ifs
  · exact w.refl _
  · exact w.passes (.ignored _)
  · exact w.trans (w.endTake _) (he _ ((endTake_pc _).trans hp))

/-- A transfer of the controller that closes its step. -/
theorem Within.transfers (w : Within c p R) {d : Dev} (hp : d.pc = p) (dt : Time) (eff : Dev → Dev)
    (he : ∀ a : Dev, a.pc = p → R a (eff a)) : R d (Dev.actPort eff (d.elapse dt)) :=
  w.onPort hp dt _ fun a ha => w.trans (he a ha) (w.passes (.close _ _))

theorem Within.requested (w : Within c p R) {r : Request} (hr : Brings c r) {a : Dev} (ha : a.pc = p) :
    R a (a.quietSdo.takeRequest r) :=
  w.trans (w.quiet a) (w.effect ha (.request _ hr))

theorem Within.asks (w : Within c p R) {d : Dev} (hp : d.pc = p) (dt : Time) {r : Request} (hr : Brings c r) :
    R d (Dev.actPort (fun d => Dev.takeRequest r d.quietSdo) (d.elapse dt)) :=
  w.transfers hp dt _ fun _ ha => w.requested hr ha

/-- A PUT by its bytes: a request that the command brings, or none. -/
theorem Within.put (w : Within c p R) {bytes : List Byte} (hr : ∀ r, Request.ofPut bytes = some r → Brings c r)
    {a : Dev} (ha : a.pc = p) : R a (a.put bytes) := by
  unfold Dev.put
  split
  next r hput => exact w.requested (hr r hput) ha
  next => exact w.trans (w.quiet a) (w.effect ha (.discardPut c _))

theorem Within.transfer (w : Within c p R) (code : Option Byte) {a : Dev} (ha : a.pc = p) : R a (a.transfer code) := by
  unfold Dev.transfer
  split
  · exact w.quiet a
  · split
    · exact w.put (fun r hr => by cases hr) ha
    · exact w.effect ha (.take c _ a)
    · exact w.passes (.shown _ a)
    · exact w.trans (w.quiet a) (w.effect ha (.malformed c _))

theorem Within.receive (w : Within c p R) {d : Dev} (hp : d.pc = p) (dt : Time) (hd : Head) (b : Body) :
    R d (Dev.act always (Dev.receive hd b) (d.elapse dt)) :=
  w.outside hp dt _ _ fun a ha _ => w.effect ha (.receive c hd b a)

end

/-- Whatever every effect of a command meets, the command meets. -/
theorem exec_within {c : Instr} {s s' : State} {R : Dev → Dev → Prop} (w : Within c s.dev.pc R)
    (h : exec c s = .next s') : R s.dev s'.dev := by
  suffices hd : ∃ d, exec c s = .next { s with dev := d } ∧ R s.dev d by
    obtain ⟨d, hd, hR⟩ := hd
    rw [hd] at h
    cases h
    exact hR
  cases c
  case powerOnReset => exact ⟨_, rfl, w.effect rfl (.powerOnReset _)⟩
  case lineReset => exact ⟨_, rfl, w.effect rfl (.lineReset _)⟩
  case resetRelease dt sid pins =>
    refine ⟨_, rfl, w.trans (w.elapse dt s.dev) ?_⟩
    split_ifs with hp
    · exact w.effect rfl (.release hp)
    · exact w.refl _
  case busFree dt => exact ⟨_, rfl, w.outside rfl dt _ _ fun a ha h => w.effect ha (.busFree (by simpa using h))⟩
  case arbitrationLoss dt => exact ⟨_, rfl, w.outside rfl dt _ _ fun a ha h => w.effect ha (.arbitrationLost h)⟩
  case bitError dt => exact ⟨_, rfl, w.outside rfl dt _ _ fun a ha h => w.effect ha (.bitError h)⟩
  case sendComplete dt acks => exact ⟨_, rfl, w.outside rfl dt _ _ fun a ha h => w.effect ha (.sendComplete h)⟩
  case frameRejected dt raw =>
    refine ⟨_, rfl, w.outside rfl dt _ _ fun a ha _ => ?_⟩
    unfold Dev.rawFrame
    split
    · exact w.effect ha (.discardFrame _ a)
    · exact w.effect ha (.receive _ _ _ a)
  case listenTimerExpiry =>
    exact ⟨_, rfl, w.atEnd rfl fun t a ht ha => w.effect ha (.listenEnd (t := t) (by rw [ha, ht]))⟩
  case collectTimerExpiry =>
    refine ⟨_, rfl, w.atEnd rfl fun t a ht ha => ?_⟩
    obtain ⟨v, hv, -⟩ := Option.map_eq_some_iff.mp ht
    exact w.effect ha (.collectEnd (w := v) (by rw [ha, hv]))
  case beaconTimerExpiry =>
    refine ⟨_, rfl, w.atEnd rfl fun t a ht ha => ?_⟩
    rw [ht]
    exact w.effect ha (.beaconDue (by rw [ha, ht]; rfl))
  case silence x =>
    refine ⟨_, rfl, w.atEnd rfl fun t a ht ha => w.effect ha (.fallSilent (t := t) ?_)⟩
    unfold Dev.silenceAt at ht ⊢
    rw [ha, ht]
  case peerExpiry x k => exact ⟨_, rfl, w.atEnd rfl fun t a _ ha => w.effect ha (.expirePeer x k a)⟩
  case surgeEntryAgeing => exact ⟨_, rfl, w.atEnd rfl fun t a _ ha => w.effect ha (.ageing _ a)⟩
  case leaseTimerExpiry k => exact ⟨_, rfl, w.atEnd rfl fun t a _ ha => w.effect ha (.leaseExpire k _ a)⟩
  case accrualTimerExpiry r => exact ⟨_, rfl, w.atEnd rfl fun t a _ ha => w.effect ha (.accrue r _ a)⟩
  case headTimerExpiry => exact ⟨_, rfl, w.atEnd rfl fun t a _ ha => w.effect ha (.headExpire a)⟩
  case selectionTimerExpiry => exact ⟨_, rfl, w.atEnd rfl fun t a _ _ => w.passes (.prompt a)⟩
  case deadlinePasses t => exact ⟨_, rfl, w.atEnd rfl fun _ a _ ha => w.effect ha (.deadlinePass t a)⟩
  case ownHoldingsDrained =>
    refine ⟨_, rfl, w.act _ _ _ fun h => w.effect rfl (.placeLeave ?_)⟩
    simp only [Bool.and_eq_true, beq_iff_eq] at h
    exact h.1.1
  case linkFaultRecovery =>
    refine ⟨_, rfl, w.act _ _ _ fun h => w.effect rfl (.recover ?_)⟩
    simp only [Bool.and_eq_true, beq_iff_eq] at h
    exact h.1.1
  case putMalformed dt bytes => exact ⟨_, rfl, w.transfers rfl dt _ fun a ha => w.put (fun _ => id) ha⟩
  case transferCodeInvalid dt code => exact ⟨_, rfl, w.transfers rfl dt _ fun a ha => w.transfer code ha⟩
  case take dt n => exact ⟨_, rfl, w.transfers rfl dt _ fun a ha => w.effect ha (.take _ n a)⟩
  case peek dt n => exact ⟨_, rfl, w.onPort rfl dt _ fun a _ => w.passes (.shown _ a)⟩
  case frameBearingOwnNumber dt => exact ⟨_, rfl, w.outside rfl dt _ _ fun a ha _ => w.effect ha (.ownNumber a)⟩
  case setup dt m a b => exact ⟨_, rfl, w.asks rfl dt (r := .setup m a b) rfl⟩
  case submit dt t k g n => exact ⟨_, rfl, w.asks rfl dt (r := .submit t k g n) rfl⟩
  case cancel dt t => exact ⟨_, rfl, w.asks rfl dt (r := .cancel t) rfl⟩
  case done dt k o => exact ⟨_, rfl, w.asks rfl dt (r := .done k o) rfl⟩
  case rate dt g => exact ⟨_, rfl, w.asks rfl dt (r := .rate g) rfl⟩
  case hold dt => exact ⟨_, rfl, w.asks rfl dt (r := .hold) rfl⟩
  case resume dt => exact ⟨_, rfl, w.asks rfl dt (r := .resume) rfl⟩
  case queryStation dt q => exact ⟨_, rfl, w.asks rfl dt (r := .query 0 q) rfl⟩
  case queryRegions dt q => exact ⟨_, rfl, w.asks rfl dt (r := .query 1 q) rfl⟩
  case queryTable dt q => exact ⟨_, rfl, w.asks rfl dt (r := .query 2 q) rfl⟩
  case queryRoster dt q => exact ⟨_, rfl, w.asks rfl dt (r := .query 3 q) rfl⟩
  case queryQueue dt q => exact ⟨_, rfl, w.asks rfl dt (r := .query 4 q) rfl⟩
  case queryCounters dt q => exact ⟨_, rfl, w.asks rfl dt (r := .query 5 q) rfl⟩
  case leaveRequest dt => exact ⟨_, rfl, w.asks rfl dt (r := .leave) rfl⟩
  case rejoin dt => exact ⟨_, rfl, w.asks rfl dt (r := .rejoin) rfl⟩
  all_goals exact ⟨_, rfl, w.receive rfl _ _ _⟩

end Sys2Proof.Effects
end

section
/-! PROOFS. What stands apart from the presence controller and from the frame in hand: most operations change neither
(R39, R42, R79). -/

namespace Sys2Proof.Effects

open Sys2Proof.Machine Sys2Proof.Laws Sys2Proof.ClaimLifeCycle Sys2Proof.JoinResync Sys2Proof.BudgetBus
  Sys2Proof.LocalQueue Sys2Proof.ControllerPort

/-- An operation that leaves `b` of `a` changes neither the presence controller nor the frame in hand. -/
structure Apart (a b : Dev) : Prop where
  pc : b.pc = a.pc
  inHand : b.biu.inHand = a.biu.inHand

theorem Apart.refl (d : Dev) : Apart d d := ⟨rfl, rfl⟩

theorem Apart.trans {a b c : Dev} (h : Apart a b) (k : Apart b c) : Apart a c :=
  ⟨k.pc.trans h.pc, k.inHand.trans h.inHand⟩

/-- The later part first, where it says what stands between. -/
theorem Apart.after {a b c : Dev} (k : Apart b c) (h : Apart a b) : Apart a c := h.trans k

variable (d : Dev)

/-! ### Notices, the local queue and the CLAIM slot -/

theorem notify_apart (n : Notice) : Apart d (d.notify n) := ⟨rfl, rfl⟩

theorem unstage_apart (c : Claim) : Apart d (d.unstage c) := ⟨unstage_pc c d, unstage_inHand c d⟩

theorem unstageWaiting_apart : Apart d d.unstageWaiting := by
  unfold Dev.unstageWaiting
  split
  · exact unstage_apart d _
  · exact Apart.refl d

theorem callBack_apart : Apart d d.callBack := by
  unfold Dev.callBack
  split
  · exact Apart.refl d
  · split_ifs
    · exact ⟨rfl, rfl⟩
    · exact unstage_apart d _

theorem removeEntry_apart (t : Byte) : Apart d (d.removeEntry t) := by
  unfold Dev.removeEntry
  split
  · exact Apart.refl d
  · dsimp only
    split_ifs <;> exact ⟨rfl, rfl⟩

theorem endEntry_apart (t : Byte) (n : Notice) : Apart d (d.endEntry t n) :=
  (removeEntry_apart d t).trans (notify_apart _ n)

theorem clearClaimSlot_apart : Apart d d.clearClaimSlot := ⟨rfl, rfl⟩

theorem endClaim_apart (c : Claim) : Apart d (d.endClaim c) := by
  unfold Dev.endClaim
  split
  · split_ifs
    · exact (clearClaimSlot_apart d).trans (endEntry_apart _ _ _)
    · exact (clearClaimSlot_apart d).trans (endEntry_apart _ _ _)
    · exact unstage_apart d c
  · exact unstage_apart d c

theorem claimBack_apart : Apart d d.claimBack := by
  unfold Dev.claimBack
  split
  · split_ifs
    · exact endClaim_apart d _
    · exact Apart.refl d
  · exact Apart.refl d

theorem dropEntry_apart (e : Entry) (n : Notice) : Apart d (d.dropEntry e n) := by
  unfold Dev.dropEntry
  split_ifs
  · exact (clearClaimSlot_apart d).trans (endEntry_apart _ _ _)
  · exact endEntry_apart d _ _

theorem deadlinePass_apart (t : Byte) : Apart d (d.deadlinePass t) := by
  unfold Dev.deadlinePass
  split
  · exact Apart.refl d
  · split_ifs
    · exact ⟨rfl, rfl⟩
    · exact dropEntry_apart d _ _

/-! ### Urgency, leases and accrual -/

theorem placePleaFor_apart (u : Urgency) : Apart d (d.placePleaFor u) := by
  unfold Dev.placePleaFor
  split
  · exact Apart.refl d
  all_goals split <;> exact ⟨rfl, rfl⟩

theorem urgentUnstage_apart : Apart d d.urgentUnstage := by
  unfold Dev.urgentUnstage
  split
  · exact Apart.refl d
  · split_ifs
    · exact Apart.refl d
    · exact callBack_apart d

theorem evalUrgency_apart : Apart d d.evalUrgency := by
  have hplaced (u : Urgency) : Apart d (Dev.placePleaFor u { d with rs.urgency := u }).prompt := by
    have h := placePleaFor_apart { d with rs.urgency := u } u
    exact ⟨h.pc, h.inHand⟩
  unfold Dev.evalUrgency
  dsimp only
  split_ifs
  · exact Apart.refl d
  · exact (hplaced _).trans (urgentUnstage_apart _)
  · exact hplaced _

theorem placeRelease_apart (k : Byte) (o : RelOutcome) : Apart d (d.placeRelease k o) :=
  ⟨rfl, placeRelease_inHand _ k o⟩

theorem leaseExpire_apart (k : Byte) (t : Time) : Apart d (d.leaseExpire k t) := by
  unfold Dev.leaseExpire
  split
  · exact Apart.refl d
  · split
    · exact Apart.refl d
    · split_ifs
      · exact ⟨rfl, rfl⟩
      · exact ⟨rfl, placeRelease_inHand _ _ _⟩

theorem headExpire_apart : Apart d d.headExpire := by
  unfold Dev.headExpire
  dsimp only
  split_ifs <;> exact ⟨rfl, rfl⟩

theorem accrue_apart (r : RegionNo) (t : Time) : Apart d (d.accrue r t) := by
  have hlapse (p : Prop) [Decidable p] (e : Dev) (n : Notice) : Apart e (if p then e.notify n else e) := by
    split_ifs
    · exact notify_apart e n
    · exact Apart.refl e
  unfold Dev.accrue
  refine (evalUrgency_apart _).after ?_
  exact (hlapse _ _ _).after ⟨rfl, rfl⟩

/-! ### Requests and other transfers -/

theorem setupRequest_apart (m a b : Byte) : Apart d (d.setupRequest m a b) := by
  unfold Dev.setupRequest
  split_ifs
  · exact notify_apart d _
  · exact (evalUrgency_apart _).after ⟨rfl, rfl⟩
  · exact notify_apart d _

theorem submitRequest_apart (t k g : Byte) (n : Word16) : Apart d (d.submitRequest t k g n) := by
  unfold Dev.submitRequest
  split
  · exact notify_apart d _
  · split <;> exact ⟨rfl, rfl⟩

theorem cancelRequest_apart (t : Byte) : Apart d (d.cancelRequest t) := by
  unfold Dev.cancelRequest
  split
  · exact notify_apart d _
  · split_ifs
    · unfold Dev.cancelSending
      split
      · split_ifs <;> exact ⟨rfl, rfl⟩
      · exact notify_apart d _
    · exact dropEntry_apart d _ _

theorem doneRequest_apart (k o : Byte) : Apart d (d.doneRequest k o) := by
  unfold Dev.doneRequest
  split
  · exact notify_apart d _
  · split
    · unfold Dev.lateDone
      dsimp only
      split_ifs <;> exact ⟨rfl, rfl⟩
    · split_ifs
      · exact (placeRelease_apart _ _ _).after ⟨rfl, rfl⟩
      · exact notify_apart d _

theorem rateRequest_apart (g : Byte) : Apart d (d.rateRequest g) := by
  unfold Dev.rateRequest
  split <;> exact ⟨rfl, rfl⟩

theorem holdRequest_apart : Apart d d.holdRequest := by
  unfold Dev.holdRequest
  split_ifs
  · exact notify_apart d _
  · exact (callBack_apart _).after ⟨rfl, rfl⟩

theorem resumeRequest_apart : Apart d d.resumeRequest := by
  unfold Dev.resumeRequest
  split_ifs
  · have hraised : Apart d (Dev.evalUrgency
        { d with rs := { d.rs with hold := false, regions := d.rs.regions.map Region.raise } }) :=
      (evalUrgency_apart _).after ⟨rfl, rfl⟩
    exact ⟨hraised.pc, hraised.inHand⟩
  · exact notify_apart d _

theorem queryRequest_apart (t p : Byte) : Apart d (d.queryRequest t p) := by
  unfold Dev.queryRequest Dev.built
  split_ifs <;> exact ⟨rfl, rfl⟩

theorem take_apart (n : TakeClocks) : Apart d (d.take n) := by
  unfold Dev.take
  split
  · exact ⟨rfl, rfl⟩
  · dsimp only
    split_ifs <;> exact ⟨rfl, rfl⟩

/-- A request that reaches the presence controller is a LEAVE in MEMBER or a REJOIN in DETACHED (R96, R98). -/
theorem takeRequest_apart (r : Request) : Apart d (d.takeRequest r) ∨
    (r = .leave ∧ d.pc.presence = .member) ∨ (r = .rejoin ∧ d.pc.presence = .detached) := by
  cases r
  case setup => exact .inl (setupRequest_apart d _ _ _)
  case submit => exact .inl (submitRequest_apart d _ _ _ _)
  case cancel => exact .inl (cancelRequest_apart d _)
  case done => exact .inl (doneRequest_apart d _ _)
  case rate => exact .inl (rateRequest_apart d _)
  case hold => exact .inl (holdRequest_apart d)
  case resume => exact .inl (resumeRequest_apart d)
  case query => exact .inl (queryRequest_apart d _ _)
  case leave =>
    by_cases hp : d.pc.presence = .member
    · exact .inr (.inl ⟨rfl, hp⟩)
    · refine .inl ?_
      rw [show d.takeRequest .leave = d.leaveRequest from rfl, leaveRequest_busy hp]
      exact notify_apart d _
  case rejoin =>
    by_cases hp : d.pc.presence = .detached
    · exact .inr (.inr ⟨rfl, hp⟩)
    · refine .inl ?_
      rw [show d.takeRequest .rejoin = d.rejoinRequest from rfl, rejoinRequest_busy hp]
      exact notify_apart d _

theorem leaveRequest_inHand : d.leaveRequest.biu.inHand = d.biu.inHand := by
  have hwaiting : (d.enter .leaving).unstageWaiting.biu.inHand = d.biu.inHand := (unstageWaiting_apart _).inHand
  unfold Dev.leaveRequest
  dsimp only
  split_ifs
  · exact hwaiting
  · exact hwaiting
  · rfl

theorem takeRequest_inHand (r : Request) : (d.takeRequest r).biu.inHand = d.biu.inHand := by
  obtain h | ⟨rfl, -⟩ | ⟨rfl, hp⟩ := takeRequest_apart d r
  · exact h.inHand
  · exact leaveRequest_inHand d
  · rw [show d.takeRequest .rejoin = d.rejoinRequest from rfl, rejoinRequest_detached hp]

end Sys2Proof.Effects
end

section
/-! PROOFS. What the other effects leave of the presence controller and of the frame in hand (R39, R42, R79, R101). -/

namespace Sys2Proof.Effects

open Sys2Proof.Machine Sys2Proof.Laws Sys2Proof.ClaimLifeCycle Sys2Proof.JoinResync Sys2Proof.BudgetBus

variable (d : Dev)

/-! ### Own frames on the line: the presence controller -/

theorem busFree_pc : d.busFree.pc = d.pc := by
  have htested : (tested d).pc = d.pc := retest_pc _
  cases hi : d.biu.inHand with
  | some f =>
    rw [busFree_repeat hi]
    split_ifs <;> exact htested
  | none =>
    by_cases hs : (tested d).offering = true
    · cases ho : (tested d).firstOffer with
      | none => rw [busFree_nothing hi (.inr ho)]; exact htested
      | some o => rw [busFree_starts hi hs ho]; exact htested
    · rw [busFree_nothing hi (.inl (Bool.eq_false_iff.mpr hs))]
      exact htested

theorem leaveSlot_pc (f : InHand) : (d.leaveSlot f).pc = d.pc := by
  unfold Dev.leaveSlot
  dsimp only
  split_ifs
  · rfl
  · split
    · exact (endClaim_apart { d with biu.inHand := none } _).pc
    · rfl
  · rfl

theorem attemptFailed_pc : d.attemptFailed.pc = d.pc := by
  unfold Dev.attemptFailed
  split
  · rfl
  · dsimp only
    split_ifs
    · exact leaveSlot_pc d _
    · exact (claimBack_apart { d with biu.inHand := none }).pc
    · rfl
    · rfl

theorem arbitrationLost_pc : d.arbitrationLost.pc = d.pc := attemptFailed_pc _

/-- A contest out of MEMBER that is the station's own changes nothing of the presence controller (R22). -/
theorem contest_own_pc (h : d.pc.presence ≠ .member) : (d.contest d.pc.station).pc = d.pc := by
  unfold Dev.contest
  dsimp only
  rw [if_pos rfl, notify_pc, if_neg h]
  rfl

theorem addOwnRecord_pc (c : Claim) (onRepeat : Bool) (h : d.pc.presence ≠ .member) :
    (d.addOwnRecord c onRepeat).pc = d.pc := by
  have hcontest (p : Prop) [Decidable p] (e : Dev) (he : e.pc = d.pc) :
      (if p then e.contest e.pc.station else e).pc = d.pc := by
    split_ifs
    · exact (contest_own_pc e (he ▸ h)).trans he
    · exact he
  refine hcontest _ _ ?_
  split_ifs <;> rfl

theorem ownReleaseDelivered_apart (k : Byte) (o : RelOutcome) : Apart d (d.ownReleaseDelivered k o) := by
  unfold Dev.ownReleaseDelivered
  split
  · exact Apart.refl d
  next x _ =>
    have hnotice (n : Option Byte) (e : Dev) :
        Apart e (match o, n with | .cancelled, some t => e.notify (.cancelled t) | _, _ => e) := by
      split
      · exact notify_apart e _
      · exact Apart.refl e
    have hcredit (p : Prop) [Decidable p] (e : Dev) :
        Apart e (if p then (e.modRegion x.target.region Region.credit).evalUrgency else e) := by
      split_ifs
      · exact (evalUrgency_apart _).after ⟨rfl, rfl⟩
      · exact Apart.refl e
    have hdone := ((hnotice (x.part.bind OwnPart.tag) { d with
      ht.holdings := dropHolding d.pc.station k d.ht.holdings,
      ht.calQueue := if x.cls = Cls.cal then calDrop d.pc.station d.ht.calQueue else d.ht.calQueue }).trans
        (hcredit (x.cls = .rfb ∧ o = .ok) _))
    exact ⟨hdone.pc, hdone.inHand⟩

theorem claimGranted_apart (c : Claim) : Apart d (d.claimGranted c) := by
  unfold Dev.claimGranted
  split <;> exact ⟨rfl, rfl⟩

theorem goOrCancel_apart (c : Claim) : Apart d (d.goOrCancel c) := by
  unfold Dev.goOrCancel
  split_ifs
  · exact (placeRelease_apart _ _ _).after ⟨rfl, rfl⟩
  · exact ⟨rfl, rfl⟩

theorem ownClaimDelivered_pc (onRepeat : Bool) (h : d.pc.presence ≠ .member) :
    (d.ownClaimDelivered onRepeat).pc = d.pc := by
  unfold Dev.ownClaimDelivered
  split
  · exact ((claimGranted_apart _ _).trans (goOrCancel_apart _ _)).pc.trans (addOwnRecord_pc d _ _ h)
  · rfl

/-- In CONFIG_FAULT no delivery moves the station (R79). -/
theorem deliver_pc (f : InHand) (h : d.pc.presence = .configFault) : (d.deliver f).pc = d.pc := by
  unfold Dev.deliver
  split
  next => exact (ownReleaseDelivered_apart d _ _).pc
  next => rfl
  next => exact ownClaimDelivered_pc d _ (by simp [h])
  next => rfl
  next => rfl
  next =>
    split
    · unfold Dev.ownIntentDelivered
      dsimp only
      split_ifs <;> rfl
    · rfl
  next => rfl
  next => rfl
  next =>
    unfold Dev.ownResyncDelivered
    dsimp only
    rw [if_neg fun k => by rw [prompt_pc, h] at k; cases k.1]
    rfl
  next => rfl
  next =>
    unfold Dev.ownJoinDelivered
    rw [if_neg fun k => by rw [h] at k; cases k]
  next =>
    unfold Dev.ownLeaveDelivered
    rw [if_neg fun k => by rw [h] at k; cases k]

theorem afterSend_pc (h : d.pc.presence = .configFault) : d.afterSend.pc = d.pc := by
  unfold Dev.afterSend
  split
  · rfl
  · dsimp only
    split_ifs
    · exact leaveSlot_pc d _
    · exact leaveSlot_pc d _
    · exact leaveSlot_pc d _
    · have hleft (e : Dev) (f : InHand) : (e.leaveSlot f).pc = e.pc := leaveSlot_pc e f
      rw [linkFault_configFault _ (by rw [hleft]; exact h), hleft]

theorem sendComplete_pc (acks : BitVec 16) (h : d.pc.presence = .configFault) : (d.sendComplete acks).pc = d.pc := by
  unfold Dev.sendComplete
  split
  · rfl
  · dsimp only
    split_ifs
    · have hdelivered (e : Dev) (f : InHand) (he : e.pc = d.pc) : (e.deliver f).afterSend.pc = d.pc := by
        have hpc : (e.deliver f).pc = d.pc := (deliver_pc e f (by rw [he, h])).trans he
        exact (afterSend_pc _ (by rw [hpc, h])).trans hpc
      exact hdelivered _ _ rfl
    · exact afterSend_pc { d with biu := _ } h

theorem bitError_pc (h : d.pc.presence = .configFault) : d.bitError.pc = d.pc := by
  have hfailed (e : Dev) (he : e.pc = d.pc) : e.attemptFailed.pc = d.pc := (attemptFailed_pc e).trans he
  have hfault (e : Dev) (he : e.pc = d.pc) : (e.linkFault .busErrors).pc = d.pc := by
    rw [linkFault_configFault _ (he ▸ h)]
    exact he
  unfold Dev.bitError
  dsimp only
  split_ifs
  · exact hfault _ (hfailed _ rfl)
  · exact hfailed _ rfl

/-! ### Frames received in CONFIG_FAULT (R79, R101) -/

theorem ownNumber_pc (h : d.pc.presence = .configFault) : d.ownNumber.pc = d.pc := by
  unfold Dev.ownNumber
  rw [if_pos h]

theorem receive_pc (hd : Head) (b : Body) (h : d.pc.presence = .configFault) : (d.receive hd b).pc = d.pc := by
  unfold Dev.receive
  dsimp only
  rw [if_pos h]
  split_ifs <;> rfl

/-! ### The frame in hand elsewhere -/

theorem enterMember_inHand : d.enterMember.biu.inHand = d.biu.inHand := by
  have hentered : (memberEntered d).biu.inHand = d.biu.inHand := by
    rw [memberEntered_eq]
    dsimp only
    split_ifs <;> rfl
  rw [enterMember_eq, prompt_biu]
  split_ifs
  · exact hentered
  · rw [markPlea_eq]
    dsimp only
    split_ifs <;> exact hentered

theorem checkAnswers_inHand : d.checkAnswers.biu.inHand = d.biu.inHand := by
  unfold Dev.checkAnswers
  split
  · split_ifs
    · exact enterMember_inHand d
    · rfl
  · rfl

theorem answerIfDue_inHand : d.answerIfDue.biu.inHand = d.biu.inHand := by
  unfold Dev.answerIfDue Biu.placeAnswer
  split_ifs <;> rfl

theorem modTally_biu (x : Station) (f : Tally → Tally) : (d.modTally x f).biu = d.biu := by
  unfold Dev.modTally
  split <;> rfl

theorem dropStation_biu (x : Station) : (d.dropStation x).biu = d.biu := by
  unfold Dev.dropStation
  split_ifs <;> rfl

theorem contestIf_inHand (p : Prop) [Decidable p] (x : Station) :
    (if p then d.contest x else d).biu.inHand = d.biu.inHand := by
  split_ifs
  · exact contest_inHand x d
  · rfl

theorem claimApplied_inHand (x : Station) (u : Bool) (k : Byte) (c : Cls) (t : Target) :
    (d.claimApplied x u k c t).biu.inHand = d.biu.inHand := by
  unfold Dev.claimApplied
  rw [prompt_biu, contestIf_inHand]
  split_ifs <;> rfl

theorem tableApply_inHand (x : Station) (b : Body) : (d.tableApply x b).biu.inHand = d.biu.inHand := by
  unfold Dev.tableApply
  split
  next =>
    split
    · exact claimApplied_inHand d _ _ _ _ _
    · rfl
  next =>
    unfold Dev.releaseApplied
    split
    · rfl
    · dsimp only
      split_ifs <;> rfl
  next =>
    unfold Dev.extendApplied
    split
    · rfl
    · split_ifs <;> rfl
  next => rfl
  next => rfl
  next => split <;> rfl
  all_goals rfl

theorem holdingApplied_inHand (x : Station) (k c u t e r : Byte) :
    (d.holdingApplied x k c u t e r).biu.inHand = d.biu.inHand := by
  have htally (a : Dev) : (if a.pc.presence = .syncing then a.modTally x Tally.countHolding else a).biu = a.biu := by
    split_ifs
    · exact modTally_biu a _ _
    · rfl
  unfold Dev.holdingApplied
  split
  · rfl
  · split
    · rfl
    · rw [prompt_biu, htally]
      split
      · rfl
      · split_ifs
        · rfl
        · exact contest_inHand x d

theorem summaryApplied_biu (x : Station) (f : Byte) (t n : Word16) : (d.summaryApplied x f t n).biu = d.biu := by
  unfold Dev.summaryApplied
  split
  · rw [modTally_biu]
    dsimp only
    split
    · split_ifs <;> rfl
    · rfl
  · rfl

theorem beaconApplied_inHand (x : Station) (g : Word16) (f : Byte) :
    (d.beaconApplied x g f).biu.inHand = d.biu.inHand := by
  unfold Dev.beaconApplied
  dsimp only
  split_ifs <;> rfl

theorem presenceApply_inHand (hd : Head) (b : Body) : (d.presenceApply hd b).biu.inHand = d.biu.inHand := by
  unfold Dev.presenceApply
  dsimp only
  split
  next =>
    unfold Dev.joinApplied Dev.excludeTally
    rw [answerIfDue_inHand, dropStation_biu, modTally_biu, modRoster_biu]
  next =>
    unfold Dev.leaveApplied Dev.excludeTally
    rw [dropStation_biu, modTally_biu, modRoster_biu, modRoster_biu]
  next => rw [beaconApplied_inHand, modRoster_biu]
  next => rw [answerIfDue_inHand, modRoster_biu]
  next => rw [summaryApplied_biu, modRoster_biu]
  next =>
    split_ifs
    · rw [holdingApplied_inHand, modRoster_biu]
    · rfl
  all_goals rfl

theorem applyFrame_inHand (hd : Head) (b : Body) : (Dev.applyFrame hd b d).biu.inHand = d.biu.inHand := by
  have htable : (if d.pc.presence.keepsView then d.tableApply hd.station b else d).biu.inHand = d.biu.inHand := by
    split_ifs
    · exact tableApply_inHand d _ _
    · rfl
  unfold Dev.applyFrame
  rw [checkAnswers_inHand, presenceApply_inHand, htable]

theorem fallSilent_inHand (x : Station) : (d.fallSilent x).biu.inHand = d.biu.inHand := by
  unfold Dev.fallSilent Dev.excludeTally
  rw [checkAnswers_inHand, dropStation_biu, modTally_biu, modRoster_biu]

/-! ### No frame in hand stays none in hand -/

variable {d} (hi : d.biu.inHand = none)

include hi

theorem emptyOutbox_empty : d.emptyOutbox.biu.inHand = none := by
  rw [emptyOutbox_rests (attempting_of_empty hi)]

theorem configFault_empty (c : CfgCause) : (d.configFault c).biu.inHand = none :=
  emptyOutbox_empty (d := Dev.notify _ (Dev.enter _ _)) hi

theorem recover_empty : d.recover.biu.inHand = none := by
  have hcleared : d.emptyOutbox.clearReplica.biu = d.emptyOutbox.biu := notifyCancelling_inHand _
  unfold Dev.recover Dev.enterListening
  rw [enter_biu]
  dsimp only
  rw [hcleared]
  exact emptyOutbox_empty hi

theorem ownNumber_empty : d.ownNumber.biu.inHand = none := by
  unfold Dev.ownNumber
  dsimp only
  split_ifs
  · exact hi
  · exact configFault_empty (d := { d with biu.busFree := false, biu.line := .silent }) hi _

theorem receive_empty (hd : Head) (b : Body) : (d.receive hd b).biu.inHand = none := by
  unfold Dev.receive
  dsimp only
  split_ifs
  · exact hi
  · exact ownNumber_empty (d := { d with biu.busFree := false, biu.line := .silent }) hi
  · exact hi
  · exact hi
  · split
    · exact configFault_empty (d := { d with biu.busFree := false, biu.line := .silent }) hi _
    · rw [applyFrame_inHand]
      exact hi
  · exact hi

end Sys2Proof.Effects
end

section
/-! PROOFS. The settings that stand until their own request changes them, and a presence controller that nothing moves
in CONFIG_FAULT (R79, R84, R102, R112, R119 to R125). -/

namespace Sys2Proof.Effects

open Sys2Proof.Machine Sys2Proof.Laws Sys2Proof.StandingBounds Sys2Proof.RetentionDuty

/-! ### The levels and the modes -/

/-- The two levels and every region's mode stand. -/
structure SameLevels (a b : Rs) : Prop where
  start : b.startLevel = a.startLevel
  stop : b.endLevel = a.endLevel
  exempt : ∀ n, (b.regionAt n).exempt = (a.regionAt n).exempt

/-- The hold flag, the rate grade, the two levels and every region's mode stand. -/
structure SameSettings (a b : Rs) : Prop extends SameLevels a b where
  hold : b.hold = a.hold
  grade : b.grade = a.grade

theorem SameLevels.trans {a b c : Rs} (h : SameLevels a b) (k : SameLevels b c) : SameLevels a c :=
  ⟨k.start.trans h.start, k.stop.trans h.stop, fun n => (k.exempt n).trans (h.exempt n)⟩

theorem SameSettings.refl (r : Rs) : SameSettings r r := ⟨⟨rfl, rfl, fun _ => rfl⟩, rfl, rfl⟩

theorem SameSettings.trans {a b c : Rs} (h : SameSettings a b) (k : SameSettings b c) : SameSettings a c :=
  ⟨h.toSameLevels.trans k.toSameLevels, k.hold.trans h.hold, k.grade.trans h.grade⟩

theorem same_of_eq {a b : Rs} (h : b = a) : SameSettings a b := h ▸ SameSettings.refl a

/-- What changes the urgency state, the staged-RFB marks and the plea mark alone. -/
theorem same_of_urgency {a b : Rs} {u : Urgency} (h : b.core = { a.core with urgency := u }) : SameSettings a b where
  hold := show b.core.hold = a.core.hold by rw [h]
  grade := show b.core.grade = a.core.grade by rw [h]
  start := show b.core.startLevel = a.core.startLevel by rw [h]
  stop := show b.core.endLevel = a.core.endLevel by rw [h]
  exempt := fun n => by
    have ha : (a.core.regionAt n).exempt = (a.regionAt n).exempt := by rw [regionAt_core]
    have hb : (b.core.regionAt n).exempt = (b.regionAt n).exempt := by rw [regionAt_core]
    rw [← ha, ← hb, h]
    rfl

theorem same_of_core {a b : Rs} (h : b.core = a.core) : SameSettings a b :=
  same_of_urgency (u := a.core.urgency) h

theorem evalUrgency_same (d : Dev) : SameSettings d.rs d.evalUrgency.rs := same_of_urgency (evalUrgency_core d)

theorem modRegion_same (d : Dev) (n : RegionNo) {f : Region → Region} (hf : ∀ x, (f x).exempt = x.exempt) :
    SameSettings d.rs (d.modRegion n f).rs := by
  refine ⟨⟨rfl, rfl, fun m => ?_⟩, rfl, rfl⟩
  by_cases hm : m = n
  · subst hm
    rw [modRegion_rs, regionAt_modRegion, hf]
  · rw [modRegion_rs, regionAt_modRegion_ne _ _ _ _ hm]

theorem mapRegions_levels (r : Rs) {f : Region → Region} (hf : ∀ x, (f x).exempt = x.exempt) (hold : Bool) :
    SameLevels r { r with hold := hold, regions := r.regions.map f } :=
  ⟨rfl, rfl, fun n => by rw [show Rs.regionAt { r with hold := hold, regions := r.regions.map f } n =
    f (r.regionAt n) from regionAt_map r f n, hf]⟩

/-! ### What each effect keeps of them -/

variable (d : Dev)

theorem credited_same (n : RegionNo) : SameSettings d.rs (d.modRegion n Region.credit).evalUrgency.rs :=
  (modRegion_same d n fun x => by unfold Region.credit; split_ifs <;> rfl).trans (evalUrgency_same _)

theorem ownReleaseDelivered_same (k : Byte) (o : RelOutcome) : SameSettings d.rs (d.ownReleaseDelivered k o).rs := by
  unfold Dev.ownReleaseDelivered
  split
  next => exact SameSettings.refl _
  next x _ =>
    dsimp only
    have told (n : Option Byte) (e : Dev) :
        (match o, n with | .cancelled, some t => e.notify (.cancelled t) | _, _ => e).rs = e.rs := by
      split <;> rfl
    have ended := told (x.part.bind OwnPart.tag) { d with
      ht.holdings := dropHolding d.pc.station k d.ht.holdings,
      ht.calQueue := if x.cls = Cls.cal then calDrop d.pc.station d.ht.calQueue else d.ht.calQueue }
    by_cases ho : x.cls = .rfb ∧ o = .ok
    · rw [if_pos ho]
      refine SameSettings.trans ?_ (credited_same _ _)
      exact same_of_eq ended
    · rw [if_neg ho]
      exact same_of_eq ended

theorem deliver_same (f : InHand) : SameSettings d.rs (d.deliver f).rs := by
  unfold Dev.deliver
  split
  · exact ownReleaseDelivered_same d _ _
  · exact same_of_eq (ownExtendDelivered_rs d _ _)
  · exact same_of_core (ownClaimDelivered_core d _)
  · exact SameSettings.refl _
  · exact SameSettings.refl _
  · split
    · exact same_of_eq (ownIntentDelivered_rs d _ _)
    · exact SameSettings.refl _
  · exact SameSettings.refl _
  · exact SameSettings.refl _
  · exact same_of_core (ownResyncDelivered_core d)
  · exact SameSettings.refl _
  · exact same_of_core (ownJoinDelivered_core d)
  · exact same_of_core (ownLeaveDelivered_core d)

theorem sendComplete_same (acks : BitVec 16) : SameSettings d.rs (d.sendComplete acks).rs := by
  unfold Dev.sendComplete
  split
  next => exact SameSettings.refl _
  next =>
    dsimp only
    split_ifs
    · refine SameSettings.trans ?_ (same_of_core (afterSend_core _))
      refine SameSettings.trans ?_ (deliver_same _ _)
      exact SameSettings.refl _
    · exact same_of_core (afterSend_core _)

theorem accrue_same (n : RegionNo) (t : Time) : SameSettings d.rs (d.accrue n t).rs := by
  have raised : SameSettings d.rs
      (d.modRegion n fun x => { x.accrue with timer := .running (t + d.rs.grade.interval) }).rs :=
    modRegion_same d n fun x => by unfold Region.accrue; split_ifs <;> rfl
  unfold Dev.accrue
  dsimp only
  refine SameSettings.trans ?_ (evalUrgency_same _)
  split_ifs <;> exact raised

/-! ### What each request may change -/

/-- What a request may change of the settings: SETUP the levels and modes, RATE the grade, HOLD and RESUME the hold
flag (R112, R119, R122, R125). -/
structure Settles (r : Request) (a b : Rs) : Prop where
  hold : b.hold = a.hold ∨ r = .hold ∨ r = .resume
  grade : b.grade = a.grade ∨ ∃ g, r = .rate g
  levels : SameLevels a b ∨ ∃ m a b, r = .setup m a b

theorem SameSettings.settles {a b : Rs} (h : SameSettings a b) (r : Request) : Settles r a b :=
  ⟨.inl h.hold, .inl h.grade, .inl h.toSameLevels⟩

theorem setupRequest_settles (m a b : Byte) : Settles (.setup m a b) d.rs (d.setupRequest m a b).rs := by
  unfold Dev.setupRequest
  split_ifs
  · exact (SameSettings.refl d.rs).settles _
  · have kept := evalUrgency_same { d with
      rs := { d.rs.exemptRegions m with startLevel := a.toNat, endLevel := b.toNat }, pu.setupLock := true }
    have hhold : (d.rs.exemptRegions m).hold = d.rs.hold := by rw [exemptRegions_eq]
    have hgrade : (d.rs.exemptRegions m).grade = d.rs.grade := by rw [exemptRegions_eq]
    exact ⟨.inl (kept.hold.trans hhold), .inl (kept.grade.trans hgrade), .inr ⟨m, a, b, rfl⟩⟩
  · exact (SameSettings.refl d.rs).settles _

theorem rateRequest_settles (g : Byte) : Settles (.rate g) d.rs (d.rateRequest g).rs := by
  unfold Dev.rateRequest
  split
  · exact ⟨.inl rfl, .inr ⟨g, rfl⟩, .inl ⟨rfl, rfl, fun _ => rfl⟩⟩
  · exact (SameSettings.refl d.rs).settles _

theorem holdRequest_settles : Settles .hold d.rs d.holdRequest.rs := by
  unfold Dev.holdRequest
  split_ifs
  · exact (SameSettings.refl d.rs).settles _
  · have called := same_of_core (callBack_core { d with rs := { d.rs.stopTimers d.now with hold := true } })
    have stopped : SameLevels d.rs { d.rs.stopTimers d.now with hold := true } :=
      mapRegions_levels d.rs (fun x => by rw [stopTimer_timer]) true
    exact ⟨.inr (.inl rfl), .inl called.grade, .inl (stopped.trans called.toSameLevels)⟩

theorem resumeRequest_settles : Settles .resume d.rs d.resumeRequest.rs := by
  by_cases hh : d.rs.hold = true
  · rw [resumeRequest_held hh]
    have judged := evalUrgency_same (raised d)
    have up : SameLevels d.rs (raised d).rs :=
      mapRegions_levels d.rs (fun x => by unfold Region.raise; split_ifs <;> rfl) false
    have again : SameLevels (raised d).evalUrgency.rs (resumed d).rs :=
      mapRegions_levels (raised d).evalUrgency.rs (fun x => by rw [restart_timer]) (raised d).evalUrgency.rs.hold
    exact ⟨.inr (.inr rfl), .inl judged.grade, .inl ((up.trans judged.toSameLevels).trans again)⟩
  · rw [Dev.resumeRequest, if_neg hh]
    exact (SameSettings.refl d.rs).settles _

theorem takeRequest_settles (r : Request) : Settles r d.rs (d.takeRequest r).rs := by
  cases r with
  | setup m a b => exact setupRequest_settles d m a b
  | submit t k g n => exact (same_of_eq (submitRequest_rs d t k g n)).settles _
  | cancel t => exact (same_of_core (cancelRequest_core d t)).settles _
  | done k o => exact (same_of_eq (doneRequest_rs d k o)).settles _
  | rate g => exact rateRequest_settles d g
  | hold => exact holdRequest_settles d
  | resume => exact resumeRequest_settles d
  | query t p => exact (same_of_eq (queryRequest_rs d t p)).settles _
  | leave => exact (same_of_core (leaveRequest_core d)).settles _
  | rejoin => exact (same_of_eq (rejoinRequest_rs d)).settles _

/-- A command that brings a request of these kinds asks for one. -/
theorem asks_of_brings {p : Request → Prop} {c : Instr} {r : Request} (hb : Brings c r) (hp : p r)
    (hkind : r = .hold ∨ r = .resume ∨ (∃ g, r = .rate g) ∨ ∃ m a b, r = .setup m a b) : Asks p c := by
  unfold Brings at hb
  split at hb
  case h_16 => exact ⟨r, hb, hp⟩
  case h_17 => exact hb.elim
  all_goals
    subst hb
    simp only [reduceCtorEq, exists_const, or_false, false_or, or_self] at hkind
  all_goals exact hp

/-! ### Everything that stands through a command -/

/-- The straps and the set lock stand, and each setting, unless the command asks for its change. -/
structure Stands (c : Instr) (a b : Dev) : Prop where
  station : b.pc.station = a.pc.station
  budget : b.pc.budget = a.pc.budget
  lock : a.pu.setupLock = true → b.pu.setupLock = true
  hold : b.rs.hold = a.rs.hold ∨ Asks (fun r => r = .hold ∨ r = .resume) c
  grade : b.rs.grade = a.rs.grade ∨ Asks (fun r => ∃ g, r = .rate g) c
  levels : SameLevels a.rs b.rs ∨ Asks (fun r => ∃ m a b, r = .setup m a b) c

variable {d} {c : Instr} {a b e : Dev}

theorem stands_of (h : Stays a b) (k : SameSettings a.rs b.rs) : Stands c a b :=
  ⟨h.station, h.budget, h.lock, .inl k.hold, .inl k.grade, .inl k.toSameLevels⟩

theorem Stands.trans (h : Stands c a b) (k : Stands c b e) : Stands c a e where
  station := k.station.trans h.station
  budget := k.budget.trans h.budget
  lock := k.lock ∘ h.lock
  hold := h.hold.elim (fun hh => k.hold.imp_left (·.trans hh)) .inr
  grade := h.grade.elim (fun hg => k.grade.imp_left (·.trans hg)) .inr
  levels := h.levels.elim (fun hl => k.levels.imp_left hl.trans) .inr

theorem passes_stands (h : Passes a b) : Stands c a b := by
  cases h with
  | time t => exact stands_of (elapseTo_stays _ t) (SameSettings.refl _)
  | close b => exact stands_of (close_stays _ b) (same_of_core (close_core _ b))
  | prompt => exact stands_of (prompt_stays _) (SameSettings.refl _)
  | takeEnds => exact ⟨rfl, rfl, id, .inl rfl, .inl rfl, .inl ⟨rfl, rfl, fun _ => rfl⟩⟩
  | ignored => exact ⟨rfl, rfl, id, .inl rfl, .inl rfl, .inl ⟨rfl, rfl, fun _ => rfl⟩⟩
  | shown l => exact ⟨rfl, rfl, id, .inl rfl, .inl rfl, .inl ⟨rfl, rfl, fun _ => rfl⟩⟩

theorem request_stands {r : Request} (hb : Brings c r) : Stands c d (d.takeRequest r) := by
  have kept := takeRequest_stays d r
  have settles := takeRequest_settles d r
  exact {
    station := kept.station
    budget := kept.budget
    lock := kept.lock
    hold := settles.hold.imp_right fun h => asks_of_brings hb h (by tauto)
    grade := settles.grade.imp_right fun h => asks_of_brings hb h (by tauto)
    levels := settles.levels.imp_right fun h => asks_of_brings hb h (by tauto) }

theorem effect_stands (hup : a.Up) (hpower : c ≠ .powerOnReset) (hline : c ≠ .lineReset) (h : Effect c a b) :
    Stands c a b := by
  cases h with
  | powerOnReset => exact absurd rfl hpower
  | lineReset => exact absurd rfl hline
  | release h => exact absurd h hup
  | busFree => exact stands_of (busFree_stays a) (same_of_core (busFree_core a))
  | arbitrationLost => exact stands_of (arbitrationLost_stays a) (same_of_core (arbitrationLost_core a))
  | bitError => exact stands_of (bitError_stays a) (same_of_core (bitError_core a))
  | sendComplete => exact stands_of (sendComplete_stays a _) (sendComplete_same a _)
  | discardFrame => exact stands_of (discardFrame_stays a) (SameSettings.refl _)
  | receive => exact stands_of (receive_stays a _ _) (same_of_core (receive_core a _ _))
  | ownNumber => exact stands_of (ownNumber_stays a) (same_of_core (ownNumber_core a))
  | listenEnd => exact stands_of (listenEnd_stays a) (SameSettings.refl _)
  | collectEnd => exact stands_of (enterMember_stays a) (same_of_core (enterMember_core a))
  | beaconDue => exact stands_of (beaconDue_stays a _) (SameSettings.refl _)
  | fallSilent => exact stands_of (fallSilent_stays a _) (same_of_core (fallSilent_core a _))
  | expirePeer x k => exact stands_of (expirePeer_stays a x k) (SameSettings.refl _)
  | ageing => exact ⟨rfl, rfl, id, .inl rfl, .inl rfl, .inl ⟨rfl, rfl, fun _ => rfl⟩⟩
  | leaseExpire k t => exact stands_of (leaseExpire_stays a k t) (same_of_eq (leaseExpire_rs a k t))
  | accrue => exact stands_of (accrue_stays a _ _) (accrue_same a _ _)
  | headExpire => exact stands_of (headExpire_stays a) (same_of_eq (headExpire_rs a))
  | deadlinePass t => exact stands_of (deadlinePass_stays a t) (same_of_core (deadlinePass_core a t))
  | placeLeave => exact stands_of (placeLeave_stays a) (SameSettings.refl _)
  | recover => exact stands_of (recover_stays a) (same_of_core (recover_core a))
  | request => exact request_stands ‹_›
  | discardPut => exact stands_of (discardPut_stays a) (SameSettings.refl _)
  | malformed => exact stands_of (malformed_stays a) (SameSettings.refl _)
  | take => exact stands_of (take_stays a _) (same_of_eq (take_rs a _))

theorem within_stands {p : Pc} (hup : p.presence ≠ .offline) (hpower : c ≠ .powerOnReset) (hline : c ≠ .lineReset) :
    Within c p (Stands c) where
  refl _ := stands_of (Stays.refl _) (SameSettings.refl _)
  trans := Stands.trans
  passes := passes_stands
  effect ha h := effect_stands (show _ ≠ _ by rw [ha]; exact hup) hpower hline h

/-! ### CONFIG_FAULT -/

theorem effect_pc (hcfg : a.InConfigFault) (hpower : c ≠ .powerOnReset) (hline : c ≠ .lineReset)
    (h : Effect c a b) : b.pc = a.pc := by
  obtain ⟨hp, hlisten, hwindow, hbeacon⟩ := hcfg
  cases h with
  | powerOnReset => exact absurd rfl hpower
  | lineReset => exact absurd rfl hline
  | release h => exact absurd (hp.symm.trans h) (by decide)
  | busFree => exact busFree_pc a
  | arbitrationLost => exact arbitrationLost_pc a
  | bitError => exact bitError_pc a hp
  | sendComplete => exact sendComplete_pc a _ hp
  | discardFrame => rfl
  | receive => exact receive_pc a _ _ hp
  | ownNumber => exact ownNumber_pc a hp
  | listenEnd h => exact absurd (hlisten.symm.trans h) (by simp)
  | collectEnd h => exact absurd (hwindow.symm.trans h) (by simp)
  | beaconDue h => exact absurd (hbeacon.symm.trans h) (by simp)
  | fallSilent h =>
    rw [Dev.silenceAt, hp] at h
    exact absurd h (by simp [Presence.keepsRoster])
  | expirePeer x k => rfl
  | ageing => rfl
  | leaseExpire k t => exact (leaseExpire_apart a k t).pc
  | accrue => exact (accrue_apart a _ _).pc
  | headExpire => exact (headExpire_apart a).pc
  | deadlinePass t => exact (deadlinePass_apart a t).pc
  | placeLeave h => exact absurd (hp.symm.trans h) (by decide)
  | recover h => exact absurd (hp.symm.trans h) (by decide)
  | request =>
    rcases takeRequest_apart a _ with h | ⟨-, h⟩ | ⟨-, h⟩
    · exact h.pc
    · exact absurd (hp.symm.trans h) (by decide)
    · exact absurd (hp.symm.trans h) (by decide)
  | discardPut => rfl
  | malformed => rfl
  | take => exact (take_apart a _).pc

theorem passes_pc (h : Passes a b) : b.pc = a.pc := by
  cases h with
  | close e => exact close_pc e a
  | _ => rfl

theorem within_pc {s : State} (hcfg : s.dev.InConfigFault) (hpower : c ≠ .powerOnReset) (hline : c ≠ .lineReset) :
    Within c s.dev.pc (fun a b => b.pc = a.pc) where
  refl _ := rfl
  trans h k := k.trans h
  passes := passes_pc
  effect ha h := effect_pc (by unfold Dev.InConfigFault; rw [ha]; exact hcfg) hpower hline h

/-- Settles O13: whatever a command may do, each effect keeps the straps, the lock and the settings but for those of its
own request, and in CONFIG_FAULT no effect reaches the presence controller. -/
theorem standingSettingsChangeByTheirRequestAlone : Obligations.StandingSettingsChangeByTheirRequestAlone := by
  refine ⟨fun c s s' hup hpower hline h => ?_, fun c s s' hcfg hpower hline h => ?_⟩
  · obtain ⟨hs, hb, hlock, hhold, hgrade, hlevels⟩ := exec_within (within_stands hup hpower hline) h
    exact ⟨⟨hs, hb⟩, hlock, hhold, hgrade, hlevels.imp_left fun k => ⟨k.start, k.stop, k.exempt⟩⟩
  · exact exec_within (within_pc hcfg hpower hline) h

end Sys2Proof.Effects
end

section
/-! PROOFS. The STAGED claim tested as the bus becomes free, and the claim that begins its way on the line (R10, R29,
R46, R51, R53, R59, R118, log 27). -/

namespace Sys2Proof.Effects

open Sys2Proof.Machine Sys2Proof.Laws Sys2Proof.BudgetBus Sys2Proof.ClaimLifeCycle Sys2Proof.JoinResync
open Sys2Proof.RetentionDuty

/-! ### The test of the STAGED claim (R10, R51, R118) -/

section Tested

variable {d : Dev} {c : Claim}

theorem stagedPasses_iff (d : Dev) (c : Claim) : d.stagedPasses c = true ↔
    d.firstFail c.cls c.target.region = none ∧
      (c.cls = .rfb → (d.rs.regionAt c.target.region).debt ≤ 0 → d.pullInOpen = true) := by
  simp only [Dev.stagedPasses, Bool.and_eq_true, Option.isNone_iff_eq_none, Bool.or_eq_true, Bool.not_eq_true',
    Bool.and_eq_false_iff, beq_eq_false_iff_ne, decide_eq_false_iff_not]
  tauto

theorem retest_elsewhere (hc : d.biu.stagedClaim = some c) (hp : d.pc.presence ≠ .member) : d.retest = d := by
  rw [Dev.retest, hc]
  exact if_neg hp

theorem retest_passes (hc : d.biu.stagedClaim = some c) (hp : d.pc.presence = .member) (h : d.stagedPasses c = true) :
    d.retest = { d with biu.outbox.claim := some { c with urgent := d.urgentClaim c.cls } } := by
  rw [Dev.retest, hc]
  dsimp only
  rw [if_pos hp, if_pos h]

theorem retest_fails (hc : d.biu.stagedClaim = some c) (hp : d.pc.presence = .member) (h : d.stagedPasses c = false) :
    d.retest = d.unstage c := by
  rw [Dev.retest, hc]
  dsimp only
  rw [if_pos hp, h]
  exact if_neg Bool.false_ne_true

theorem retest_empty (hc : d.biu.stagedClaim = none) : d.retest = d := by
  rw [Dev.retest, hc]

/-- A claim that stands in the slot once it was tested in MEMBER has passed. -/
theorem claim_of_retest {cl : Claim} (hi : d.biu.inHand = none) (hp : d.pc.presence = .member)
    (h : d.retest.biu.outbox.claim = some cl) :
    ∃ c, d.biu.outbox.claim = some c ∧ d.stagedPasses c = true ∧ cl = { c with urgent := d.urgentClaim c.cls } := by
  have hstaged : d.biu.stagedClaim = d.biu.outbox.claim := stagedClaim_eq (inHandIs_empty hi _)
  cases hc : d.biu.outbox.claim with
  | none => rw [retest_empty (hstaged.trans hc), hc] at h; cases h
  | some c =>
    cases hpass : d.stagedPasses c with
    | true =>
      rw [retest_passes (hstaged.trans hc) hp hpass] at h
      cases h
      exact ⟨c, rfl, hpass, rfl⟩
    | false =>
      rw [retest_fails (hstaged.trans hc) hp hpass, unstage_eq] at h
      cases h

end Tested

/-! ### No command but BUS_FREE puts a frame in hand (R29, R46) -/

theorem passes_empty {a b : Dev} (h : Passes a b) (ha : a.biu.inHand = none) : b.biu.inHand = none := by
  cases h with
  | close e => rw [close_inHand]; exact ha
  | _ => exact ha

theorem effect_empty {c : Instr} {a b : Dev} (hc : ∀ dt, c ≠ .busFree dt) (h : Effect c a b)
    (ha : a.biu.inHand = none) : b.biu.inHand = none := by
  have rests := attempting_of_empty ha
  cases h with
  | powerOnReset => rfl
  | lineReset => rfl
  | release => exact ha
  | busFree => exact absurd rfl (hc _)
  | arbitrationLost h => exact absurd (rests.symm.trans h) (by decide)
  | bitError h => exact absurd (rests.symm.trans h) (by decide)
  | sendComplete h => exact absurd (rests.symm.trans h) (by decide)
  | discardFrame => exact ha
  | receive => exact receive_empty ha _ _
  | ownNumber => exact ownNumber_empty ha
  | listenEnd => exact ha
  | collectEnd => rw [enterMember_inHand]; exact ha
  | beaconDue => exact ha
  | fallSilent => rw [fallSilent_inHand]; exact ha
  | expirePeer => exact ha
  | ageing => exact ha
  | leaseExpire => exact (leaseExpire_apart a _ _).inHand.trans ha
  | accrue => exact (accrue_apart a _ _).inHand.trans ha
  | headExpire => exact (headExpire_apart a).inHand.trans ha
  | deadlinePass => exact (deadlinePass_apart a _).inHand.trans ha
  | placeLeave => exact ha
  | recover => exact recover_empty ha
  | request => exact (takeRequest_inHand a _).trans ha
  | discardPut => exact ha
  | malformed => exact ha
  | take => exact (take_apart a _).inHand.trans ha

theorem within_empty {c : Instr} {p : Pc} (hc : ∀ dt, c ≠ .busFree dt) :
    Within c p (fun a b => a.biu.inHand = none → b.biu.inHand = none) where
  refl _ := id
  trans h k := k ∘ h
  passes := passes_empty
  effect _ := effect_empty hc

/-! ### What BUS_FREE starts (R46, R53, R59) -/

/-- With no frame in hand BUS_FREE leaves none, or the first offer's attempt begins. -/
theorem busFree_cases {d : Dev} (hi : d.biu.inHand = none) :
    d.busFree.biu.inHand = none ∨ ∃ o, (tested d).firstOffer = some o ∧ d.busFree = (tested d).startAttempt o := by
  by_cases hs : (tested d).offering = true
  · cases ho : (tested d).firstOffer with
    | none => exact .inl (by rw [busFree_nothing hi (.inr ho), tested_inHand, hi])
    | some o => exact .inr ⟨o, rfl, busFree_starts hi hs ho⟩
  · exact .inl (by rw [busFree_nothing hi (.inl (Bool.eq_false_iff.mpr hs)), tested_inHand, hi])

/-- A claim in hand after a free bus, with none before, is the STAGED claim, tested at that moment. -/
theorem claim_started {d : Dev} {f : InHand} (hi : d.biu.inHand = none) (hf : d.busFree.biu.inHand = some f)
    (hr : f.ref = .claim) : ∃ cl, d.biu.outbox.claim = some cl ∧ d.pc.presence = .member ∧
      d.firstFail cl.cls cl.target.region = none ∧
      f.body = .claim (cl.cls == .rfb && d.rs.urgency == .urgent) cl.handle cl.cls.code (nat8 cl.cls.units)
        cl.target.byte ∧
      f.fresh = true ∧ f.sends = 0 ∧ d.busFree.pu.goReserved = true := by
  obtain hnone | ⟨o, ho, hstart⟩ := busFree_cases hi
  · rw [hnone] at hf
    cases hf
  · rw [hstart, startAttempt_eq] at hf
    cases hf
    have href : o.ref = .claim := hr
    obtain ⟨hp, c, hc, hbody, -⟩ := (firstOffer_fits ho).2 href
    rw [tested, retest_pc] at hp
    obtain ⟨cl, hcl, hpass, rfl⟩ := claim_of_retest (d := { d with biu.busFree := true, biu.line := .silent }) hi hp hc
    refine ⟨cl, hcl, hp, ((stagedPasses_iff _ cl).mp hpass).1, hbody, rfl, rfl, ?_⟩
    rw [hstart, startAttempt_eq]
    simp only [href, beq_self_eq_true, Bool.or_true]

/-- Settles O20: the test by its outcome; and since BUS_FREE alone puts a frame in hand, a claim that begins is the one
just tested. -/
theorem stagedClaimIsTestedBeforeItIsSent : Obligations.StagedClaimIsTestedBeforeItIsSent := by
  refine ⟨fun d c hc => ⟨?_, retest_elsewhere hc, retest_passes hc, fun hp hfail => ?_⟩,
    fun c s s' f hi h hf hr => ?_⟩
  · rw [stagedPasses_iff, pullInOpen_iff]
  · rw [retest_fails hc hp hfail, unstage_eq]
    rfl
  · by_cases hfree : ∃ dt, c = .busFree dt
    · obtain ⟨dt, rfl⟩ := hfree
      by_cases hup : s.dev.Up
      · rw [exec_busFree_acts hup (attempting_of_empty hi) rfl] at h
        cases h
        rw [State.after, close_inHand] at hf
        obtain ⟨cl, hcl, hp, hfail, hbody, hfresh, hsends, hgo⟩ := claim_started (d := s.dev.elapse dt) hi hf hr
        exact ⟨dt, cl, rfl, hcl, hp, hfail, hbody, hfresh, hsends, by rw [State.after, close_pu, hgo]⟩
      · have held : exec (.busFree dt) s = .next { s with dev := s.dev.elapse dt } :=
          congrArg s.answer (act_not _ _ _ fun k => hup k.1)
        rw [held] at h
        cases h
        exact absurd (hi.symm.trans hf) (by simp)
    · push Not at hfree
      rw [exec_within (within_empty hfree) h hi] at hf
      cases hf

end Sys2Proof.Effects
end

section
/-! PROOFS. A send that every other member has acknowledged: the frame in hand is delivered and leaves its slot at once
(R39, R40). -/

namespace Sys2Proof.OwnDelivery

open Sys2Proof.Machine Sys2Proof.Laws Sys2Proof.BudgetBus Sys2Proof.ClaimLifeCycle Sys2Proof.JoinResync
open Sys2Proof.Effects

/-! ### The other members (R39, R81) -/

theorem memberMask_congr {p q : Pc} (h : ∀ x, q.isMember x = p.isMember x) : q.memberMask = p.memberMask := by
  unfold Pc.memberMask
  simp only [h]

/-- The members are read from the states of the records alone. -/
theorem memberMask_of_states {p q : Pc} (hs : q.station = p.station)
    (h : ∀ x, (q.rosterAt x).state = (p.rosterAt x).state) : q.memberMask = p.memberMask :=
  memberMask_congr fun x => by rw [Pc.isMember, Pc.isMember, hs, h]

theorem rosterAt_map {p q : Pc} {f : RosterRec → RosterRec} (h : q.roster = p.roster.map f) (x : Station) :
    q.rosterAt x = f (p.rosterAt x) := by
  simp [Pc.rosterAt, h]

theorem memberMask_of_map {p q : Pc} {f : RosterRec → RosterRec} (hs : q.station = p.station)
    (h : q.roster = p.roster.map f) (hf : ∀ r, (f r).state = r.state) : q.memberMask = p.memberMask :=
  memberMask_of_states hs fun x => by rw [rosterAt_map h, hf]

theorem memberMask_of_roster {p q : Pc} (hs : q.station = p.station) (h : q.roster = p.roster) :
    q.memberMask = p.memberMask :=
  memberMask_of_states hs fun x => by rw [Pc.rosterAt, Pc.rosterAt]; simp only [h]

/-! ### What no delivery changes -/

/-- The other members and the frame in hand stand. -/
structure SameSend (a b : Dev) : Prop where
  members : b.pc.memberMask = a.pc.memberMask
  inHand : b.biu.inHand = a.biu.inHand

theorem SameSend.refl (d : Dev) : SameSend d d := ⟨rfl, rfl⟩

theorem SameSend.trans {a b c : Dev} (h : SameSend a b) (k : SameSend b c) : SameSend a c :=
  ⟨k.members.trans h.members, k.inHand.trans h.inHand⟩

theorem sameSend_of_apart {a b : Dev} (h : Apart a b) : SameSend a b := ⟨congrArg Pc.memberMask h.pc, h.inHand⟩

variable (d : Dev)

theorem contest_sameSend (x : Station) : SameSend d (d.contest x) := by
  refine ⟨?_, contest_inHand x d⟩
  have counted : (if x = d.pc.station then d.pc
      else d.pc.modRoster x (fun r => { r with contests := inc16 r.contests })).memberMask = d.pc.memberMask := by
    split_ifs with hx
    · rfl
    · refine memberMask_of_states rfl fun y => ?_
      by_cases hy : y = x
      · rw [hy, rosterAt_modRoster]
      · rw [rosterAt_modRoster_ne _ _ _ _ hy]
  have resynced (e : Dev) :
      (if e.pc.presence = .member then e.startResync else e).pc.memberMask = e.pc.memberMask := by
    split_ifs
    · exact memberMask_of_map rfl rfl fun _ => rfl
    · rfl
  refine (resynced _).trans ?_
  rw [← counted]
  split_ifs <;> rfl

theorem addOwnRecord_sameSend (c : Claim) (onRepeat : Bool) : SameSend d (d.addOwnRecord c onRepeat) := by
  have contested (p : Prop) [Decidable p] (e : Dev) : SameSend e (if p then e.contest e.pc.station else e) := by
    split_ifs
    · exact contest_sameSend e _
    · exact SameSend.refl e
  refine SameSend.trans ?_ (contested _ _)
  split_ifs
  · exact ⟨rfl, withdrawRequeue_inHand _⟩
  · exact ⟨rfl, rfl⟩

theorem ownClaimDelivered_sameSend (onRepeat : Bool) : SameSend d (d.ownClaimDelivered onRepeat) := by
  unfold Dev.ownClaimDelivered
  split
  next c _ =>
    have granted := (claimGranted_apart (d.addOwnRecord c onRepeat) c).trans (goOrCancel_apart _ c)
    exact (addOwnRecord_sameSend d c onRepeat).trans (sameSend_of_apart ⟨granted.pc, granted.inHand⟩)
  next => exact SameSend.refl d

theorem enterMember_sameSend : SameSend d d.enterMember := by
  refine ⟨?_, enterMember_inHand d⟩
  have hpc : d.enterMember.pc = (memberEntered d).pc := by
    rw [enterMember_eq, prompt_pc]
    split_ifs
    · rfl
    · rw [markPlea_eq]
  rw [hpc, memberEntered_eq]
  exact memberMask_of_map rfl rfl fun _ => rfl

theorem checkAnswers_sameSend : SameSend d d.checkAnswers := by
  unfold Dev.checkAnswers
  split
  · split_ifs
    · exact enterMember_sameSend d
    · exact SameSend.refl d
  · exact SameSend.refl d

theorem ownJoinDelivered_sameSend : SameSend d d.ownJoinDelivered := by
  unfold Dev.ownJoinDelivered
  split_ifs
  · exact enterMember_sameSend d
  · exact ⟨memberMask_of_roster rfl rfl, rfl⟩
  · exact SameSend.refl d

theorem ownResyncDelivered_sameSend : SameSend d d.ownResyncDelivered := by
  unfold Dev.ownResyncDelivered
  dsimp only
  split_ifs
  · refine SameSend.trans ?_ (checkAnswers_sameSend _)
    exact ⟨memberMask_of_roster rfl rfl, rfl⟩
  · exact ⟨rfl, rfl⟩

/-- The replica cleared, with CANCELLED for each CANCELLING holding that ends with it (R24, R76, log 41). -/
theorem notifyCancelling_eq : d.notifyCancelling = { d with pu := d.pu.cancelled d.cancellingTags } := by
  have told (l : List Holding) (e : Dev) :
      l.foldl (fun d h =>
        match h.part with
        | some p =>
          match p.state, p.tag with
          | .cancelling, some t => d.notify (.cancelled t)
          | _, _ => d
        | none => d) e =
      { e with pu := e.pu.cancelled (l.filterMap fun h =>
          match h.holder with
          | .own p => if p.state = .cancelling then p.tag else none
          | .peer _ _ => none) } := by
    induction l generalizing e with
    | nil => rfl
    | cons h l ih =>
      rw [List.foldl_cons, ih, List.filterMap_cons]
      unfold Holding.part
      cases h.holder with
      | peer _ _ => rfl
      | own p =>
        dsimp only
        by_cases hp : p.state = .cancelling
        · rw [if_pos hp, hp]
          cases p.tag <;> rfl
        · rw [if_neg hp]
          split
          next hs _ => exact absurd hs hp
          next => rfl
  exact told d.ownHoldings d

theorem clearReplica_eq : d.clearReplica =
    { d with ht := d.ht.clearedView, rs.pleaMark := .none, pu := d.pu.cancelled d.cancellingTags } := by
  unfold Dev.clearReplica
  rw [notifyCancelling_eq]
  rfl

theorem ownLeaveDelivered_sameSend : SameSend d d.ownLeaveDelivered := by
  unfold Dev.ownLeaveDelivered
  split_ifs
  · rw [clearReplica_eq]
    exact ⟨memberMask_of_roster rfl rfl, rfl⟩
  · exact SameSend.refl d

/-- No delivery changes the frame in hand or the members it waits for. -/
theorem deliver_sameSend (f : InHand) : SameSend d (d.deliver f) := by
  unfold Dev.deliver
  split
  next => exact sameSend_of_apart (ownReleaseDelivered_apart d _ _)
  next => exact ⟨rfl, rfl⟩
  next => exact ownClaimDelivered_sameSend d _
  next => exact ⟨rfl, rfl⟩
  next => exact ⟨rfl, rfl⟩
  next =>
    split
    · unfold Dev.ownIntentDelivered
      dsimp only
      split_ifs <;> exact ⟨rfl, rfl⟩
    · exact SameSend.refl d
  next => exact SameSend.refl d
  next => exact SameSend.refl d
  next => exact ownResyncDelivered_sameSend d
  next => exact SameSend.refl d
  next => exact ownJoinDelivered_sameSend d
  next => exact ownLeaveDelivered_sameSend d

/-! ### Delivered and finished at once (R39, R40) -/

variable {s : State} {dt : Time} {a1 a2 : Byte} {f : InHand} {r : Dev}

/-- The frame in hand as its send makes it acknowledged by all. -/
def ackedByAll (d : Dev) (f : InHand) (acks : BitVec 16) : InHand :=
  { f with sending := false, sends := f.sends + 1, acked := d.ackedWith f acks, delivered := true }

/-- A send acknowledged by every other member has reached one, or there is none. -/
theorem sent_reached {d : Dev} {acks : BitVec 16} (h : d.AllAcknowledge f acks) :
    (f.sent acks d.pc.memberMask).reached d.pc.memberMask = true := by
  obtain ⟨-, -, hall⟩ := h
  by_contra hr
  obtain ⟨hm, ha⟩ := not_or.mp (mt (reached_iff _ _).mpr hr)
  exact missing_of_unacknowledged hm (not_not.mp ha) hall

theorem sendComplete_all {d : Dev} {acks : BitVec 16} (h : d.AllAcknowledge f acks) :
    d.sendComplete acks =
      Dev.leaveSlot (ackedByAll d f acks) (Dev.deliver (f.sent acks d.pc.memberMask) (d.sentToAll f acks)) := by
  have kept := deliver_sameSend (d.sentToAll f acks) (f.sent acks d.pc.memberMask)
  rw [sendComplete_delivers h.1.1 h.2.1 (sent_reached h)]
  exact afterSend_acknowledged kept.inHand ((congrArg (· &&& _) kept.members).trans h.2.2)

/-- What SEND_COMPLETE does with a send that all have acknowledged. -/
theorem exec_sendComplete_all (hu : s.dev.Up) (h : s.dev.AllAcknowledge f (ackSlots a1 a2))
    (hr : Dev.leaveSlot (ackedByAll s.dev f (ackSlots a1 a2))
      (Dev.deliver (f.sent (ackSlots a1 a2) s.dev.pc.memberMask)
        (Dev.sentToAll f (ackSlots a1 a2) (s.dev.elapse dt))) = r) :
    exec (.sendComplete dt ⟨a1, a2⟩) s = .next (s.after dt r) :=
  exec_sendComplete_acts hu (attempting_of_sends h.1) ((sendComplete_all (d := s.dev.elapse dt) h).trans hr)

/-- A frame that is no claim leaves its slot as it was delivered. -/
theorem exec_sendComplete_other (hu : s.dev.Up) (h : s.dev.AllAcknowledge f (ackSlots a1 a2)) (href : f.ref ≠ .claim)
    (hr : Dev.deliver (f.sent (ackSlots a1 a2) s.dev.pc.memberMask)
        (Dev.sentToAll f (ackSlots a1 a2) (s.dev.elapse dt)) = r) :
    exec (.sendComplete dt ⟨a1, a2⟩) s = .next (s.after dt (Dev.finished f.ref r)) :=
  exec_sendComplete_all hu h (by rw [hr]; exact leaveSlot_other href)

end Sys2Proof.OwnDelivery
end

section
/-! PROOFS. The own claim and the own RELEASE delivered (R16, R57 to R60, R68 to R70). -/

namespace Sys2Proof.OwnDelivery

open Sys2Proof.Machine Sys2Proof.Laws Sys2Proof.BudgetBus Sys2Proof.ClaimLifeCycle Sys2Proof.HoldingsList

/-! ### The own claim (R16, R57 to R60) -/

section Claimed

variable (c : Claim) (d : Dev)

/-- The part with the surge entry and the own record of a delivered claim (R57). -/
def recordStored : Dev :=
  { d with ht.surge := surgeAdd d.now d.ht.surge,
           ht.holdings := insertHolding (ownRecord d.pc.station d.now c) (makeRoom d.ht.holdings) }

/-- A CAL claim also stops the head timer and withdraws a waiting REQUEUE (R149). -/
def recordTimed : Dev :=
  if c.cls = .cal then
    { recordStored c d with ht.headTimer := none, biu := (recordStored c d).biu.withdrawRequeue }
  else recordStored c d

theorem recordTimed_pc : (recordTimed c d).pc = d.pc := by
  unfold recordTimed
  split_ifs <;> rfl

/-- The contest check of the whole view (R22). -/
theorem overfull_iff (d : Dev) :
    d.overfull = true ↔ d.units < heldUnits d.ht.holdings ∨ 2 ≤ calRecords d.ht.holdings := by
  simp only [Dev.overfull, Dev.free, Bool.or_eq_true, decide_eq_true_eq, sub_neg, Nat.cast_lt]

theorem addOwnRecord_eq (sends : Nat) : d.addOwnRecord c (decide (1 < sends + 1)) =
    if 32 ≤ d.ht.holdings.length ∨ (1 ≤ sends ∧ ((recordTimed c d).units < heldUnits (recordTimed c d).ht.holdings ∨
        2 ≤ calRecords (recordTimed c d).ht.holdings)) then
      (recordTimed c d).contest d.pc.station
    else recordTimed c d := by
  have judged : d.addOwnRecord c (decide (1 < sends + 1)) =
      if (!decide (d.ht.holdings.length < Config.holdingsCap) || (decide (1 < sends + 1) && (recordTimed c d).overfull))
        then (recordTimed c d).contest (recordTimed c d).pc.station else recordTimed c d := rfl
  rw [judged, recordTimed_pc]
  have full : ¬ d.ht.holdings.length < Config.holdingsCap ↔ 32 ≤ d.ht.holdings.length := Nat.not_lt
  have again : 1 < sends + 1 ↔ 1 ≤ sends := by omega
  refine if_congr ?_ rfl rfl
  rw [Bool.or_eq_true, Bool.not_eq_true', decide_eq_false_iff_not, full, Bool.and_eq_true, decide_eq_true_iff, again,
    overfull_iff]

end Claimed

theorem deliver_claim {d : Dev} {f : InHand} {c : Claim} (hb : isClaimFrame f.body = true)
    (hc : d.biu.outbox.claim = some c) :
    d.deliver f = Dev.prompt (((d.addOwnRecord c (decide (1 < f.sends))).claimGranted c).goOrCancel c) := by
  have claims : d.deliver f = d.ownClaimDelivered (decide (1 < f.sends)) := by
    unfold Dev.deliver
    cases hf : f.body
    case claim => rfl
    all_goals
      rw [hf] at hb
      cases hb
  rw [claims, Dev.ownClaimDelivered, hc]

/-- A delivered claim leaves its slot with its reservation (R42, R59). -/
theorem leaveSlot_prompt {f : InHand} (href : f.ref = .claim) (hd : f.delivered = true) (e : Dev) :
    e.prompt.leaveSlot f = Dev.prompt { e with biu.outbox.claim := none, biu.inHand := none, pu.goReserved := false } :=
  leaveSlot_delivered href hd

/-- Settles O26: the delivery step by step, and what a record's arrival and the room made for it are. -/
theorem ownClaimDeliveryMakesAHolding : Obligations.OwnClaimDeliveryMakesAHolding := by
  refine ⟨?delivered, fun h l hl => ⟨insertHolding_canonical h l hl, mem_insertHolding_iff h hl⟩,
    fun l => ⟨makeRoom_short, makeRoom_own, fun pre p post b e hfull hl hsplit hp hpre hpost => ?room⟩⟩
  case delivered =>
    intro s dt a1 a2 f c hu hall href hbody hc d own stored timed judged granted told
    have hjudged : d.addOwnRecord c (decide (1 < f.sends + 1)) = judged := addOwnRecord_eq c d f.sends
    have htold : ((d.addOwnRecord c (decide (1 < f.sends + 1))).claimGranted c).goOrCancel c = told := by
      rw [hjudged]
      rfl
    have hdeliver : d.deliver (f.sent (ackSlots a1 a2) s.dev.pc.memberMask) = told.prompt := by
      rw [← htold]
      exact deliver_claim hbody hc
    refine exec_sendComplete_all hu hall ?_
    rw [hdeliver]
    exact leaveSlot_prompt (f := ackedByAll s.dev f (ackSlots a1 a2)) href rfl told
  case room =>
    subst hsplit
    refine makeRoom_split hfull hl (expiry_peer hp) (fun x hx e' he => ?_) fun x hx e' he => ?_
    · obtain ⟨b', hx'⟩ := exists_peer he
      exact hpre x hx b' e' hx'
    · obtain ⟨b', hx'⟩ := exists_peer he
      exact hpost x hx b' e' hx'

/-! ### The own RELEASE (R68 to R70) -/

theorem relOutcome_ofCode_code (o : RelOutcome) : RelOutcome.ofCode o.code = o := by
  cases o <;> rfl

theorem deliver_release {d : Dev} {f : InHand} {h : Byte} {o : RelOutcome} (hb : f.body = .release h o.code) :
    d.deliver f = d.ownReleaseDelivered h o := by
  rw [Dev.deliver, hb]
  dsimp only
  rw [relOutcome_ofCode_code]

/-- Settles O27: the record found, its effects in their order, and the slot freed. -/
theorem ownReleaseDeliveryEndsTheHolding : Obligations.OwnReleaseDeliveryEndsTheHolding := by
  intro s dt a1 a2 f h o x hu hall href hbody hx d dropped told credited
  have hdeliver : d.ownReleaseDelivered h o = credited.prompt := by
    rw [Dev.ownReleaseDelivered, show findHolding d.pc.station h d.ht.holdings = some x from hx]
    rfl
  rw [← href]
  refine exec_sendComplete_other hu hall (by rw [href]; nofun) ?_
  rw [← hdeliver]
  exact deliver_release hbody

end Sys2Proof.OwnDelivery
end

section
/-! PROOFS. The other own frames delivered: what each does to the own replica and to the presence state (R4, R20, R24,
R86, R94, R97, R143 to R147). -/

namespace Sys2Proof.OwnDelivery

open Sys2Proof.Machine Sys2Proof.Laws Sys2Proof.JoinResync

/-! ### EXTEND, PLEA, CLEAR and INTENT (R4, R20, R143 to R147) -/

section Replica

variable {d : Dev} {f : InHand}

theorem mapHolding_eq (x : Station) (h : Byte) (g : Holding → Holding) (l : List Holding) :
    mapHolding x h g l = l.map (fun y => if y.station = x ∧ y.handle = h then g y else y) := by
  simp only [mapHolding, Bool.and_eq_true, beq_iff_eq]

theorem deliver_extend {h n : Byte} (hb : f.body = .extend h n) : d.deliver f = Dev.prompt { d with
    ht.holdings := d.ht.holdings.map
      (fun x => if x.station = d.pc.station ∧ x.handle = h then { x with extensions := n } else x) } := by
  rw [Dev.deliver, hb]
  dsimp only
  rw [Dev.ownExtendDelivered, mapHolding_eq]

theorem deliver_plea (hb : f.body = .plea) :
    d.deliver f = Dev.prompt { d with ht.pleas := d.ht.pleas ||| maskBit d.pc.station } := by
  rw [Dev.deliver, hb]
  rfl

theorem deliver_clear (hb : f.body = .clear) :
    d.deliver f = Dev.prompt { d with ht.pleas := d.ht.pleas &&& ~~~maskBit d.pc.station } := by
  rw [Dev.deliver, hb]
  rfl

theorem deliver_intent {code : Byte} {a : IntentAction} {t : Word16} (hb : f.body = .intent code t)
    (ha : IntentAction.ofCode code = some a) : d.deliver f = d.ownIntentDelivered a t := by
  rw [Dev.deliver, hb]
  dsimp only
  rw [ha]

/-- An ENQUEUE or a WITHDRAW starts no head timer. -/
theorem ownIntentDelivered_other {a : IntentAction} (ha : a ≠ .requeue) (t : Word16) :
    d.ownIntentDelivered a t = Dev.prompt { d with ht := d.ht.applyIntent d.pc.station a t } :=
  if_neg fun h => ha h.1

theorem deliver_enqueue {t : Word16} (hb : f.body = .intent 0 t) : d.deliver f = Dev.prompt { d with
    ht.calQueue := if d.ht.calQueue.any (fun e => e.1 == d.pc.station) then d.ht.calQueue
                   else d.ht.calQueue ++ [(d.pc.station, t)],
    ht.nextTicket := t + 1 } :=
  (deliver_intent hb rfl).trans (ownIntentDelivered_other (by decide) t)

theorem deliver_withdraw {t : Word16} (hb : f.body = .intent 1 t) : d.deliver f = Dev.prompt { d with
    ht.calQueue := d.ht.calQueue.filter (fun e => e.1 != d.pc.station) } :=
  (deliver_intent hb rfl).trans (ownIntentDelivered_other (by decide) t)

/-- With its entry moved to the tail the station is at the head only where no other entry stands. -/
theorem head_of_requeued (x : Station) (t : Word16) (q : List (Station × Word16)) :
    ((q.filter (fun e => e.1 != x) ++ [(x, t)]).head?.map (fun e => e.1)) = some x ↔
      q.filter (fun e => e.1 != x) = [] := by
  cases hq : q.filter (fun e => e.1 != x) with
  | nil => simp
  | cons e l =>
    have he : e.1 ≠ x := by
      have hmem : e ∈ q.filter (fun e => e.1 != x) := hq ▸ List.mem_cons_self
      simpa using (List.mem_filter.mp hmem).2
    simp [he]

theorem ownIntentDelivered_requeue (t : Word16) : d.ownIntentDelivered .requeue t = Dev.prompt { d with
    ht.calQueue := d.ht.calQueue.filter (fun e => e.1 != d.pc.station) ++ [(d.pc.station, t)],
    ht.nextTicket := t + 1,
    ht.headTimer :=
      if d.pc.presence = .member ∧ d.ht.calQueue.filter (fun e => e.1 != d.pc.station) = [] then some (d.now + us 20000)
      else d.ht.headTimer } := by
  have hhead : (IntentAction.requeue = .requeue ∧
      (Dev.prompt { d with ht := d.ht.applyIntent d.pc.station .requeue t }).headAsMember = true) ↔
        d.pc.presence = .member ∧ d.ht.calQueue.filter (fun e => e.1 != d.pc.station) = [] := by
    rw [← head_of_requeued d.pc.station t]
    simp only [true_and, Dev.headAsMember, Dev.isHead, Bool.and_eq_true, beq_iff_eq]
    rfl
  unfold Dev.ownIntentDelivered
  dsimp only
  rw [if_congr hhead rfl rfl]
  split_ifs <;> rfl

theorem deliver_requeue {t : Word16} (hb : f.body = .intent 2 t) : d.deliver f = Dev.prompt { d with
    ht.calQueue := d.ht.calQueue.filter (fun e => e.1 != d.pc.station) ++ [(d.pc.station, t)],
    ht.nextTicket := t + 1,
    ht.headTimer :=
      if d.pc.presence = .member ∧ d.ht.calQueue.filter (fun e => e.1 != d.pc.station) = [] then some (d.now + us 20000)
      else d.ht.headTimer } :=
  (deliver_intent hb rfl).trans (ownIntentDelivered_requeue t)

/-- An own SUMMARY, HOLDING or BEACON changes nothing of the own replica. -/
theorem deliver_answer (hk : (kindOf f.body).toNat = 7 ∨ (kindOf f.body).toNat = 8 ∨ (kindOf f.body).toNat = 10) :
    d.deliver f = d := by
  unfold Dev.deliver
  cases hb : f.body with
  | holding => rfl
  | summary => rfl
  | beacon => rfl
  | claim urgent => rw [hb] at hk; cases urgent <;> simp [kindOf] at hk
  | _ => simp [hb, kindOf] at hk

end Replica

/-- Settles O28, frame by frame. -/
theorem ownFramesReachTheOwnReplica : Obligations.OwnFramesReachTheOwnReplica := by
  intro s dt a1 a2 f hu hall href d own
  refine ⟨fun h n hb => ?_, fun hb => ?_, fun hb => ?_, fun t hb => ?_, fun t hb => ?_, fun t hb => ?_, fun hk => ?_⟩
  · exact exec_sendComplete_other hu hall href (deliver_extend hb)
  · exact exec_sendComplete_other hu hall href (deliver_plea hb)
  · exact exec_sendComplete_other hu hall href (deliver_clear hb)
  · exact exec_sendComplete_other hu hall href (deliver_enqueue hb)
  · exact exec_sendComplete_other hu hall href (deliver_withdraw hb)
  · exact exec_sendComplete_other hu hall href (deliver_requeue hb)
  · exact exec_sendComplete_other hu hall href (deliver_answer hk)

/-! ### JOIN, LEAVE and RESYNC (R24, R86, R94, R97) -/

section Moved

variable {d : Dev} {f : InHand}

/-- The own JOIN in the solo case: MEMBER at once (R86). -/
theorem deliver_joinSolo {b v : Byte} (hb : f.body = .join b v) (hp : d.pc.presence = .joining)
    (hm : d.pc.memberMask = 0) : d.deliver f = d.enterMember := by
  rw [Dev.deliver, hb]
  dsimp only
  rw [Dev.ownJoinDelivered, if_pos hp, if_pos hm]

theorem deliver_join {b v : Byte} (hb : f.body = .join b v) (hp : d.pc.presence = .joining)
    (hm : d.pc.memberMask ≠ 0) : d.deliver f = { d with
      pc.presence := .syncing, pc.syncCause := some .join, pc.beaconEnds := some (d.now + us 2000),
      pc.window := some { ends := d.now + us 4000, tallies := Vector.replicate 16 Tally.fresh },
      pu := d.pu.push (.state .syncing) } := by
  rw [Dev.deliver, hb]
  dsimp only
  rw [Dev.ownJoinDelivered, if_pos hp, if_neg hm]
  rfl

theorem deliver_leave (hb : f.body = .leave) (hp : d.pc.presence = .leaving) : d.deliver f = { d with
    ht := d.ht.clearedView, rs.pleaMark := .none,
    biu.outbox := { Outbox.empty with joinLeave := d.biu.outbox.joinLeave },
    pc.presence := .detached, pc.beaconEnds := none,
    pu := (d.pu.cancelled d.cancellingTags).push (.state .detached) } := by
  rw [Dev.deliver, hb]
  dsimp only
  rw [Dev.ownLeaveDelivered, if_pos hp, clearReplica_eq]
  rfl

theorem deliver_leaveElsewhere (hb : f.body = .leave) (hp : d.pc.presence ≠ .leaving) : d.deliver f = d := by
  rw [Dev.deliver, hb]
  exact if_neg hp

theorem deliver_resync (hb : f.body = .resync) (hp : d.pc.presence = .syncing) (hw : d.pc.window = none) :
    d.deliver f = Dev.checkAnswers (Dev.prompt { d with
      ht.holdings := d.ht.holdings.filter (fun x => x.isOwn), ht.pleas := d.ht.pleas &&& maskBit d.pc.station,
      ht.calQueue := d.ht.calQueue.filter (fun e => e.1 == d.pc.station),
      pc.window := some { ends := d.now + us 4000, tallies := Vector.replicate 16 Tally.fresh } }) := by
  have awaited : d.pc.presence = .syncing ∧ d.pc.window = none := ⟨hp, hw⟩
  rw [Dev.deliver, hb]
  exact if_pos awaited

end Moved

/-- Settles O29, by the state that awaits each frame. -/
theorem ownPresenceFramesMoveTheStation : Obligations.OwnPresenceFramesMoveTheStation := by
  intro s dt a1 a2 f hall d
  have up {p : Presence} (hp : s.dev.pc.presence = p) (hne : p ≠ .offline) : s.dev.Up := fun h => hne (hp.symm.trans h)
  refine ⟨fun b v hp href hb hm => ?solo, fun b v hp href hb hm => ?collects, fun hp href hb => ?leaves,
    fun hp href hb => ?faulted, clearReplica_eq, fun hp href hb hw => ?resyncs⟩
  case solo =>
    exact exec_sendComplete_other (up hp (by decide)) hall href (deliver_joinSolo hb hp hm)
  case collects =>
    exact exec_sendComplete_other (up hp (by decide)) hall href (deliver_join hb hp hm)
  case leaves =>
    rw [← href]
    exact exec_sendComplete_other (up hp (by decide)) hall (by simp [href]) (deliver_leave hb hp)
  case faulted =>
    have hup : s.dev.Up := hp.elim (up · (by decide)) (up · (by decide))
    have hne : s.dev.pc.presence ≠ .leaving := by
      rcases hp with hp | hp <;> simp [hp]
    rw [← href]
    exact exec_sendComplete_other hup hall (by simp [href]) (deliver_leaveElsewhere hb hne)
  case resyncs =>
    exact exec_sendComplete_other (up hp (by decide)) hall href (deliver_resync hb hp hw)

end Sys2Proof.OwnDelivery
end

section
/-! PROOFS. The frames that the holding table takes: a peer's claim, RELEASE, EXTEND, PLEA, CLEAR and INTENT applied to
the view, and what a contest does (R15 to R23, R38, R94, R133, R143 to R145). -/

namespace Sys2Proof.ViewFrames

open Sys2Proof.Machine Sys2Proof.Laws Sys2Proof.BudgetBus Sys2Proof.JoinResync Sys2Proof.RetentionDuty
open Sys2Proof.OwnDelivery

/-! ### A contest (R22, R94) -/

/-- A contest counted, for a peer also in its record, and alerted. -/
def contestAlerted (x : Station) (d : Dev) : Dev :=
  let counted : Dev := { d with ht.contests := inc16 d.ht.contests }
  let marked : Dev :=
    if x = d.pc.station then counted else counted.modRoster x (fun r => { r with contests := inc16 r.contests })
  marked.notify (.alert (.contest x))

theorem contestAlerted_own {x : Station} {d : Dev} (h : x = d.pc.station) : contestAlerted x d =
    Dev.notify (.alert (.contest x)) { d with ht.contests := inc16 d.ht.contests } := by
  unfold contestAlerted
  dsimp only
  rw [if_pos h]

theorem contestAlerted_peer {x : Station} {d : Dev} (h : x ≠ d.pc.station) : contestAlerted x d =
    Dev.notify (.alert (.contest x))
      (Dev.modRoster x (fun r => { r with contests := inc16 r.contests })
        { d with ht.contests := inc16 d.ht.contests }) := by
  unfold contestAlerted
  dsimp only
  rw [if_neg h]

theorem contest_eq (x : Station) (d : Dev) : d.contest x =
    if d.pc.presence = .member then (contestAlerted x d).startResync else contestAlerted x d := by
  have presence : (contestAlerted x d).pc.presence = d.pc.presence := by
    by_cases hx : x = d.pc.station
    · rw [contestAlerted_own hx]
      rfl
    · rw [contestAlerted_peer hx]
      rfl
  rw [← presence]
  rfl

/-- Settles O34: the alert, and in MEMBER the resync that follows it. -/
theorem contestIsCountedAlertedAndRepaired : Obligations.ContestIsCountedAlertedAndRepaired := by
  intro d x counted marked alerted
  have halerted : contestAlerted x d = alerted := rfl
  refine ⟨fun hp => ?_, fun hp => ?_⟩
  · rw [contest_eq, if_neg hp, halerted]
  · rw [contest_eq, if_pos hp, startResync_eq]
    by_cases hx : x = d.pc.station
    · rw [← halerted, contestAlerted_own hx]
      simp only [marked, if_pos hx]
      rfl
    · rw [← halerted, contestAlerted_peer hx]
      simp only [marked, if_neg hx]
      rfl

/-! ### A frame that the holding table takes (R38) -/

/-- A frame heard where a view is kept, applied by the holding table, updates the roster besides. -/
theorem exec_tabled {c : Instr} {s : State} {dt : Time} {hd : Head} {b : Body} {x : Dev}
    (hv : s.dev.pc.presence.keepsView = true) (h : s.dev.Hears hd) (hf : frameOf c = some (dt, hd, b))
    (hc : b.costOk = true) (hcfg : cfgCheck s.dev.pc.budget b = none)
    (hheard : ∀ d : Dev, d.presenceApply hd b = d.modRoster hd.station (RosterRec.hear d.now hd.seq))
    (ht : (acknowledged (s.dev.elapse dt)).tableApply hd.station b = acknowledged x) :
    exec c s = .next (s.after dt (Dev.checkAnswers (Dev.heard hd x))) := by
  have applied : Dev.applyFrame hd b (acknowledged (s.dev.elapse dt)) = Dev.checkAnswers (Dev.heard hd x) := by
    have kept : (acknowledged (s.dev.elapse dt)).pc.presence.keepsView = true := hv
    unfold Dev.applyFrame
    dsimp only
    rw [if_pos kept, ht, hheard]
    rfl
  rw [exec_heard h hf hc hcfg, applied]

/-! ### Sets of stations (R4) -/

theorem inMask_or (m n : BitVec 16) (y : Station) : inMask (m ||| n) y = (inMask m y || inMask n y) :=
  BitVec.getLsbD_or

theorem inMask_join (m : BitVec 16) (x y : Station) :
    inMask (m ||| maskBit x) y = true ↔ inMask m y = true ∨ y = x := by
  rw [inMask_or, Bool.or_eq_true, inMask_maskBit]

theorem inMask_leave (m : BitVec 16) (x y : Station) :
    inMask (m &&& ~~~maskBit x) y = true ↔ inMask m y = true ∧ y ≠ x := by
  have hy : y.toNat < 16 := y.isLt
  have outside : (~~~maskBit x).getLsbD y.toNat = true ↔ y ≠ x := by
    rw [BitVec.getLsbD_not, decide_eq_true hy, Bool.true_and, Bool.not_eq_true', ← Bool.not_eq_true]
    exact not_congr (inMask_maskBit x y)
  rw [← outside, ← Bool.and_eq_true]
  exact Bool.coe_iff_coe.mpr BitVec.getLsbD_and

/-- Settles O36: each frame moves the view before the roster notes its sender. -/
theorem receivedPleasAndIntentsChangeTheView : Obligations.ReceivedPleasAndIntentsChangeTheView := by
  intro s dt hd hv hh d heard
  refine ⟨?_, ?_, fun t => ?_, fun t => ?_, fun t => ?_, fun m x y => ⟨inMask_join m x y, inMask_leave m x y⟩⟩
  · exact exec_tabled hv hh rfl rfl rfl (fun _ => rfl) rfl
  · exact exec_tabled hv hh rfl rfl rfl (fun _ => rfl) rfl
  · exact exec_tabled hv hh rfl rfl rfl (fun _ => rfl) rfl
  · exact exec_tabled hv hh rfl rfl rfl (fun _ => rfl) rfl
  · exact exec_tabled hv hh rfl rfl rfl (fun _ => rfl) rfl

/-! ### RELEASE and EXTEND (R18, R20) -/

theorem relOutcome_forced_iff (o : Byte) : RelOutcome.ofCode o = .forced ↔ o = 3 := by
  constructor
  · unfold RelOutcome.ofCode
    split
    case h_4 h => exact fun _ => BitVec.eq_of_toNat_eq h
    all_goals nofun
  · rintro rfl
    rfl

section Released

variable {d : Dev} {x : Station} {h : Byte} {y : Holding}

theorem releaseApplied_absent (hy : findHolding x h d.ht.holdings = none) (o : RelOutcome) :
    d.releaseApplied x h o = d := by
  rw [Dev.releaseApplied, hy]

theorem releaseApplied_found (hy : findHolding x h d.ht.holdings = some y) (o : Byte) :
    d.releaseApplied x h (RelOutcome.ofCode o) =
      let dropped : Dev := { d with
        ht.holdings := d.ht.holdings.filter (fun z => !(z.station == x && z.handle == h)),
        ht.calQueue := if y.cls = .cal then d.ht.calQueue.filter (fun e => e.1 != x) else d.ht.calQueue }
      Dev.prompt (if o = 3 then dropped.modRoster x (fun r => { r with forcedSeen := inc16 r.forcedSeen })
        else dropped) := by
  rw [Dev.releaseApplied, hy]
  simp only [relOutcome_forced_iff]
  rfl

theorem extendCounts_iff (n : Byte) (y : Holding) :
    extendCounts n y = true ↔ (n = 1 ∨ n = 2) ∧ y.extensions.toNat ≤ n.toNat := by
  simp only [extendCounts, Bool.and_eq_true, Bool.or_eq_true, beq_iff_eq, decide_eq_true_eq]

theorem extendTo_peer {b : Int} {e : Time} (hy : y.holder = .peer b e) (n : Byte) : y.extendTo n =
    { y with extensions := n,
             holder := .peer b (b + ((leaseTime y.cls * (1 + n.toNat) + us 2000 : Nat) : Int)).toNat } := by
  rw [Holding.extendTo, hy]
  rfl

theorem extendApplied_raises {n : Byte} (hy : findHolding x h d.ht.holdings = some y) (hn : extendCounts n y = true) :
    d.extendApplied x h n =
      Dev.prompt { d with ht.holdings := mapHolding x h (Holding.extendTo n) d.ht.holdings } := by
  rw [Dev.extendApplied, hy]
  exact if_pos hn

theorem extendApplied_ignored {n : Byte}
    (hno : ∀ y, findHolding x h d.ht.holdings = some y → ¬ extendCounts n y = true) :
    d.extendApplied x h n = d := by
  unfold Dev.extendApplied
  split
  · rfl
  next y hy => exact if_neg (hno y hy)

end Released

/-- Settles O35, by the record under the frame's key. -/
theorem receivedReleaseAndExtendChangeTheRecord : Obligations.ReceivedReleaseAndExtendChangeTheRecord := by
  refine ⟨fun s dt hd h o hv hh => ?released, fun s dt hd h n hv hh => ?extended⟩
  case released =>
    intro d
    refine ⟨fun hnone => ?absent, fun x hx => ?found⟩
    case absent =>
      exact exec_tabled hv hh rfl rfl rfl (fun _ => rfl) (releaseApplied_absent (d := acknowledged d) hnone _)
    case found =>
      intro dropped counted
      refine exec_tabled hv hh rfl rfl rfl (fun _ => rfl) ?_
      refine (releaseApplied_found (d := acknowledged d) hx o).trans ?_
      by_cases ho : o = 3
      · simp only [counted, if_pos ho]
        rfl
      · simp only [counted, if_neg ho]
        rfl
  case extended =>
    intro d
    refine ⟨fun x b e hx hholder hn hle => ?raises, fun hno => ?ignored⟩
    case raises =>
      refine ⟨_, exec_tabled hv hh rfl rfl rfl (fun _ => rfl)
        (extendApplied_raises (d := acknowledged d) hx ((extendCounts_iff n x).mpr ⟨hn, hle⟩)), rfl,
        extendTo_peer hholder n⟩
    case ignored =>
      refine exec_tabled hv hh rfl rfl rfl (fun _ => rfl) (extendApplied_ignored (d := acknowledged d) fun y hy => ?_)
      rw [extendCounts_iff]
      rintro ⟨hn, hle⟩
      have found : findHolding hd.station h d.ht.holdings = some y := hy
      rcases hno with hnone | ⟨h1, h2⟩ | ⟨x, hx, hlt⟩
      · rw [hnone] at found
        cases found
      · exact hn.elim h1 h2
      · rw [hx] at found
        cases found
        omega

end Sys2Proof.ViewFrames
end

section
/-! PROOFS. A peer's claim applied: the soft contest, the surge entry, the record and the contest (R15, R22, R23). -/

namespace Sys2Proof.ViewFrames

open Sys2Proof.Machine Sys2Proof.Laws Sys2Proof.BudgetBus Sys2Proof.JoinResync Sys2Proof.RetentionDuty
open Sys2Proof.OwnDelivery

section Claimed

variable (d : Dev) (x : Station) (urgent : Bool) (h : Byte) (c : Cls) (t : Target)

theorem otherPlea_some {m : BitVec 16} : otherPlea m x = true ↔ ∃ y, y ≠ x ∧ inMask m y = true := by
  rw [← Bool.not_eq_false, otherPlea_iff]
  push Not
  exact exists_congr fun y => and_comm

theorem softContest_iff : d.softContest x urgent c = true ↔
    (if urgent then d.free < (c.units : Int) else d.free - 4 < (c.units : Int)) ∨
      (c ≠ .rfb ∧ ∃ y, y ≠ x ∧ inMask d.ht.pleas y = true) ∨ 12 ≤ d.ht.surge.length ∨ (urgent = true ∧ c ≠ .rfb) := by
  have rail : (if urgent then decide (d.free < (c.units : Int)) else decide (d.free - Config.reserve < (c.units : Int)))
      = true ↔ if urgent then d.free < (c.units : Int) else d.free - 4 < (c.units : Int) := by
    cases urgent <;> exact decide_eq_true_iff
  simp only [Dev.softContest, Bool.or_eq_true, Bool.and_eq_true, rail, otherPlea_some, bne_iff_ne, decide_eq_true_eq]
  rw [or_assoc, or_assoc, and_comm (a := ∃ y, y ≠ x ∧ inMask d.ht.pleas y = true)]

theorem listFull_iff (l : List Holding) :
    listFull l x h = true ↔ 32 ≤ l.length ∧ findHolding x h l = none := by
  rw [listFull, Bool.and_eq_true, decide_eq_true_iff, Option.isNone_iff_eq_none, Config.holdingsCap]

/-- A claim's record is received with one lease limit and the grace to run. -/
theorem claimRecord_eq (now : Time) : claimRecord now x h c t =
    { station := x, handle := h, cls := c, target := t, extensions := 0,
      holder := .peer now (now + leaseTime c + us 2000) } := by
  have expiry : expiryOf now c 0 = now + leaseTime c + us 2000 := by
    unfold expiryOf graceTime
    rw [← Nat.cast_add, Int.toNat_natCast, Nat.add_zero, Nat.mul_one, Nat.add_assoc]
  rw [claimRecord, expiry]

/-- The sender's record with a soft contest counted, where the claim is one (R23). -/
def softJudged : Dev :=
  if d.softContest x urgent c then d.modRoster x (fun r => { r with softContests := inc16 r.softContests }) else d

theorem softJudged_now : (softJudged d x urgent c).now = d.now := by
  unfold softJudged
  split_ifs <;> rfl

theorem softJudged_ht : (softJudged d x urgent c).ht = d.ht := by
  unfold softJudged
  split_ifs <;> rfl

/-- The claim judged, its start counted and its record stored where there is room (R15). -/
def claimStored : Dev :=
  { softJudged d x urgent c with
    ht.surge := surgeAdd d.now d.ht.surge,
    ht.holdings :=
      if 32 ≤ d.ht.holdings.length ∧ findHolding x h d.ht.holdings = none then d.ht.holdings
      else insertHolding
        { station := x, handle := h, cls := c, target := t, extensions := 0,
          holder := .peer d.now (d.now + leaseTime c + us 2000) } d.ht.holdings }

theorem claimApplied_eq : d.claimApplied x urgent h c t = Dev.prompt
    (if (32 ≤ d.ht.holdings.length ∧ findHolding x h d.ht.holdings = none) ∨
        (claimStored d x urgent h c t).units < heldUnits (claimStored d x urgent h c t).ht.holdings ∨
        2 ≤ calRecords (claimStored d x urgent h c t).ht.holdings then
      (claimStored d x urgent h c t).contest x
    else claimStored d x urgent h c t) := by
  have stored : claimStored d x urgent h c t = { softJudged d x urgent c with
      ht.surge := surgeAdd (softJudged d x urgent c).now (softJudged d x urgent c).ht.surge,
      ht.holdings := if listFull (softJudged d x urgent c).ht.holdings x h then (softJudged d x urgent c).ht.holdings
        else insertHolding (claimRecord (softJudged d x urgent c).now x h c t)
          (softJudged d x urgent c).ht.holdings } := by
    simp only [claimStored, softJudged_now, softJudged_ht, claimRecord_eq, listFull_iff]
  have applied : d.claimApplied x urgent h c t = Dev.prompt
      (if (listFull (softJudged d x urgent c).ht.holdings x h || (claimStored d x urgent h c t).overfull) = true then
        (claimStored d x urgent h c t).contest x
      else claimStored d x urgent h c t) := by
    rw [stored]
    rfl
  rw [applied]
  refine congrArg Dev.prompt (if_congr ?_ rfl rfl)
  rw [Bool.or_eq_true, softJudged_ht, listFull_iff, overfull_iff]

end Claimed

/-! ### A contest while the line acknowledges (R22, R35) -/

theorem contest_acknowledged (d : Dev) (x : Station) : (acknowledged d).contest x = acknowledged (d.contest x) := by
  have alerted : contestAlerted x (acknowledged d) = acknowledged (contestAlerted x d) := by
    by_cases hx : x = d.pc.station
    · have hx' : x = (acknowledged d).pc.station := hx
      rw [contestAlerted_own hx, contestAlerted_own hx']
      rfl
    · have hx' : x ≠ (acknowledged d).pc.station := hx
      rw [contestAlerted_peer hx, contestAlerted_peer hx']
      rfl
  by_cases hp : d.pc.presence = .member
  · have hp' : (acknowledged d).pc.presence = .member := hp
    rw [contest_eq, contest_eq, if_pos hp, if_pos hp', alerted]
    rfl
  · have hp' : (acknowledged d).pc.presence ≠ .member := hp
    rw [contest_eq, contest_eq, if_neg hp, if_neg hp', alerted]

theorem claimStored_acknowledged (d : Dev) (x : Station) (urgent : Bool) (h : Byte) (c : Cls) (t : Target) :
    claimStored (acknowledged d) x urgent h c t = acknowledged (claimStored d x urgent h c t) := by
  have judged : softJudged (acknowledged d) x urgent c = acknowledged (softJudged d x urgent c) := by
    have same : (acknowledged d).softContest x urgent c = d.softContest x urgent c := rfl
    unfold softJudged
    rw [same]
    split_ifs <;> rfl
  unfold claimStored
  rw [judged]
  rfl

theorem claimApplied_acknowledged (d : Dev) (x : Station) (urgent : Bool) (h : Byte) (c : Cls) (t : Target) :
    (acknowledged d).claimApplied x urgent h c t = acknowledged (d.claimApplied x urgent h c t) := by
  rw [claimApplied_eq, claimApplied_eq, claimStored_acknowledged, contest_acknowledged]
  have same (e : Dev) : (acknowledged e).units = e.units ∧ (acknowledged e).ht = e.ht := ⟨rfl, rfl⟩
  simp only [(same _).1, (same _).2]
  split_ifs <;> rfl

theorem tableApply_claim (d : Dev) (x : Station) (urgent : Bool) (h : Byte) (c : Cls) (t : Byte) :
    d.tableApply x (.claim urgent h c.code (nat8 c.units) t) = d.claimApplied x urgent h c (Target.ofByte t) := by
  unfold Dev.tableApply
  simp only [cls_ofCode_code]

/-- Settles O33: both kinds of claim are applied alike, and the judgement is the one of R23. -/
theorem receivedClaimIsStored : Obligations.ReceivedClaimIsStored := by
  intro s dt hd urgent h c t hv hh d full judged stored settled
  refine ⟨softContest_iff d hd.station urgent c, ?_⟩
  have applied : (acknowledged d).tableApply hd.station (.claim urgent h c.code (nat8 c.units) t) =
      acknowledged settled.prompt := by
    rw [tableApply_claim, claimApplied_acknowledged, claimApplied_eq]
    rfl
  cases urgent with
  | true => exact exec_tabled hv hh rfl (claimCostOk_units c) rfl (fun _ => rfl) applied
  | false => exact exec_tabled hv hh rfl (claimCostOk_units c) rfl (fun _ => rfl) applied

end Sys2Proof.ViewFrames
end

section
/-! PROOFS. LINK_FAULT entered, and the recovery that leads out of it (R45, R56, R76, R99, R100, logs 15, 41, 42). -/

namespace Sys2Proof.LinkFaults

open Sys2Proof.Machine Sys2Proof.Laws Sys2Proof.BudgetBus Sys2Proof.JoinResync Sys2Proof.ClaimLifeCycle
open Sys2Proof.ControllerPort Sys2Proof.OwnDelivery Sys2Proof.CalibrationReference

/-! ### The own holdings settled (R76) -/

theorem awaitsDone_iff (p : OwnPart) : p.awaitsDone = true ↔ p.state = .running ∨ p.state = .overrun := by
  simp only [OwnPart.awaitsDone, Bool.or_eq_true, beq_iff_eq]

/-- A record settled is a peer's, or an own one that awaits no DONE. -/
theorem settledRecord_iff (h : Holding) : (h.isOwn = true → (!(h.part.map OwnPart.awaitsDone).getD false) = true) ↔
    ∀ p, h.holder = .own p → p.state ≠ .running ∧ p.state ≠ .overrun := by
  unfold Holding.isOwn Holding.part
  cases hh : h.holder with
  | peer b e => exact ⟨fun _ _ h => (nomatch h), fun _ h => (nomatch h)⟩
  | own p =>
    have settles : p.awaitsDone = false ↔ p.state ≠ .running ∧ p.state ≠ .overrun := by
      rw [← Bool.not_eq_true, awaitsDone_iff, not_or]
    simp [settles]

theorem settled_iff (d : Dev) : d.settled = true ↔ (∀ h ∈ d.ht.holdings, ∀ p, h.holder = .own p →
    p.state ≠ .running ∧ p.state ≠ .overrun) ∧ d.biu.claimSending = false := by
  rw [Dev.settled, Bool.and_eq_true, Bool.not_eq_true']
  refine and_congr_left' ?_
  rw [Dev.ownHoldings, List.all_filter, List.all_eq_true]
  refine forall₂_congr fun h _ => ?_
  rw [← settledRecord_iff]
  cases h.isOwn <;> simp

/-! ### LINK_FAULT entered (R99) -/

theorem mayLinkFault_iff (p : Presence) :
    p.mayLinkFault = true ↔ p = .joining ∨ p = .syncing ∨ p = .member ∨ p = .leaving := by
  cases p <;> decide

/-- LINK_FAULT with its notices, and then a STAGED claim unstaged (log 42). -/
def linkFaulted (c : LinkCause) (d : Dev) : Dev :=
  Dev.anyUnstaged { d with
    pc.presence := .linkFault, pc.syncCause := none, pc.window := none,
    pu := (d.pu.push (.state .linkFault)).push (.alert (.linkFault c)) }

/-- What an unstaging keeps of what is asked of the own holdings and of the attempt. -/
theorem anyUnstaged_keeps (d : Dev) :
    d.anyUnstaged.settled = d.settled ∧ d.anyUnstaged.biu.attempting = d.biu.attempting := by
  unfold Dev.anyUnstaged
  split <;> exact ⟨rfl, rfl⟩

theorem linkFault_enters (c : LinkCause) {d : Dev} (h : d.pc.presence.mayLinkFault = true) :
    d.linkFault c = if (d.settled && !d.biu.attempting) = true then (linkFaulted c d).recover
      else linkFaulted c d := by
  have entered : Dev.unstageWaiting (Dev.notify (.alert (.linkFault c))
      (Dev.enter .linkFault { d with pc.syncCause := none, pc.window := none })) = linkFaulted c d :=
    unstageWaiting_eq _
  have keeps := anyUnstaged_keeps { d with
    pc.presence := .linkFault, pc.syncCause := none, pc.window := none,
    pu := (d.pu.push (.state .linkFault)).push (.alert (.linkFault c)) }
  have settled : (linkFaulted c d).settled = d.settled := keeps.1
  have attempting : (linkFaulted c d).biu.attempting = d.biu.attempting := keeps.2
  unfold Dev.linkFault
  rw [if_pos h]
  dsimp only
  rw [entered, settled, attempting]

/-! ### The outbox emptied keeps the view and the presence controller (R45) -/

/-- The local time, the holding table and the presence controller stand. -/
structure ViewStands (a b : Dev) : Prop where
  now : b.now = a.now
  ht : b.ht = a.ht
  pc : b.pc = a.pc

theorem ViewStands.trans {a b c : Dev} (h : ViewStands a b) (k : ViewStands b c) : ViewStands a c :=
  ⟨k.now.trans h.now, k.ht.trans h.ht, k.pc.trans h.pc⟩

section Stands

variable (d : Dev)

theorem unstage_view (c : Claim) : ViewStands d (d.unstage c) := by
  rw [unstage_eq]
  exact ⟨rfl, rfl, rfl⟩

theorem endEntry_view (t : Byte) (n : Notice) : ViewStands d (d.endEntry t n) := by
  have removed : ViewStands d (d.removeEntry t) := by
    unfold Dev.removeEntry
    split
    · exact ⟨rfl, rfl, rfl⟩
    · dsimp only
      split_ifs <;> exact ⟨rfl, rfl, rfl⟩
  exact ⟨removed.now, removed.ht, removed.pc⟩

theorem endClaim_view (c : Claim) : ViewStands d (d.endClaim c) := by
  have ended (t : Byte) (n : Notice) : ViewStands d (d.clearClaimSlot.endEntry t n) :=
    ViewStands.trans (b := d.clearClaimSlot) ⟨rfl, rfl, rfl⟩ (endEntry_view _ t n)
  unfold Dev.endClaim
  split
  · split_ifs
    · exact ended _ _
    · exact ended _ _
    · exact unstage_view d c
  · exact unstage_view d c

theorem emptyClaim_view : ViewStands d d.emptyClaim := by
  unfold Dev.emptyClaim
  split
  · exact ⟨rfl, rfl, rfl⟩
  · exact unstage_view d _
  · split_ifs
    · exact ⟨rfl, rfl, rfl⟩
    · exact ⟨rfl, rfl, rfl⟩
    · exact endClaim_view d _
    · exact unstage_view d _

theorem emptyOutbox_view : ViewStands d d.emptyOutbox := by
  have emptied := emptyClaim_view d
  unfold Dev.emptyOutbox
  dsimp only
  split
  · split_ifs <;> exact ⟨emptied.now, emptied.ht, emptied.pc⟩
  · exact ⟨emptied.now, emptied.ht, emptied.pc⟩

end Stands

theorem cancellingTags_of_view {a b : Dev} (h : ViewStands a b) : b.cancellingTags = a.cancellingTags := by
  unfold Dev.cancellingTags Dev.ownHoldings
  rw [h.ht]

/-! ### Recovery (R100) -/

theorem recover_eq (d : Dev) : d.recover = { d.emptyOutbox with
    ht := d.emptyOutbox.ht.clearedView, rs.pleaMark := .none,
    biu := { d.emptyOutbox.biu with losses := 0, consecErrors := 0 },
    pc := { d.pc with presence := .listening, listenEnds := some (d.now + us 6000), beaconEnds := none,
                      roster := d.pc.roster.map (fun r =>
                        { r with state := .absent, lastHeard := none, lastApplied := none, mismatch := 0 }) },
    pu := (d.emptyOutbox.pu.cancelled d.cancellingTags).push (.state .listening) } := by
  have stands := emptyOutbox_view d
  have tags := cancellingTags_of_view stands
  rw [Dev.recover, clearReplica_eq, tags, ← stands.pc, ← stands.now]
  rfl

/-- Out of a settled part with no attempt under way no claim ends with a notice: it was delivered, or it is unstaged. -/
theorem emptyClaim_settled {d : Dev} (hs : d.settled = true) (ha : d.biu.attempting = false) :
    (d.biu.outbox.claim = none ∧ d.emptyClaim = d) ∨
      ∃ c, d.biu.outbox.claim = some c ∧ (d.emptyClaim = d.clearClaimSlot ∨ d.emptyClaim = d.unstaged c) := by
  obtain ⟨-, hclaim⟩ := (settled_iff d).mp hs
  cases hc : d.biu.outbox.claim with
  | none => exact .inl ⟨rfl, by rw [Dev.emptyClaim, hc]⟩
  | some c =>
    refine .inr ⟨c, rfl, ?_⟩
    cases hi : d.biu.inHand with
    | none => exact .inr (by simp only [Dev.emptyClaim, hc, hi, unstage_eq])
    | some f =>
      by_cases hr : f.ref = .claim
      · have hdelivered : f.delivered = true := by simpa [Biu.claimSending, hi, hr] using hclaim
        exact .inl (emptyClaim_delivered hi hr hc ((attempting_of_inHand hi).symm.trans ha) hdelivered)
      · exact .inr (by simp only [Dev.emptyClaim, hc, hi, if_neg hr, unstage_eq])

/-- What the emptied outbox leaves of a settled part with no attempt under way. -/
structure Emptied (d e : Dev) : Prop where
  biu : e.biu = { d.biu with outbox := Outbox.empty, inHand := none }
  pu : e.pu = { d.pu with goReserved := d.pu.goReserved && d.biu.outbox.claim.isNone }
  entries : ∀ x ∈ d.oqs.queue, ∃ y ∈ e.oqs.queue, y.tag = x.tag ∧ y.cls = x.cls ∧ y.bypass = x.bypass

theorem emptyOutbox_settled {d : Dev} (hs : d.settled = true) (ha : d.biu.attempting = false) :
    Emptied d d.emptyOutbox := by
  rw [emptyOutbox_rests ha]
  obtain ⟨hc, he⟩ | ⟨c, hc, he | he⟩ := emptyClaim_settled hs ha
  · rw [he]
    exact ⟨rfl, by simp [hc], fun x hx => ⟨x, hx, rfl, rfl, rfl⟩⟩
  · rw [he]
    exact ⟨rfl, by simp [hc, Dev.clearClaimSlot, Dev.prompt], fun x hx => ⟨x, hx, rfl, rfl, rfl⟩⟩
  · rw [he]
    refine ⟨rfl, by simp [hc, Dev.unstaged], fun x hx => ?_⟩
    cases ht : c.tag with
    | none => exact ⟨x, by simpa [Dev.unstaged, ht] using hx, rfl, rfl, rfl⟩
    | some t =>
      refine ⟨if x.tag = t then { x with staged := false } else x, ?_, ?_⟩
      · simp only [Dev.unstaged, ht]
        exact List.mem_map_of_mem hx
      · split_ifs <;> exact ⟨rfl, rfl, rfl⟩

/-! ### The close of a step out of MEMBER (R142, R147, R157) -/

section Closed

variable {b d : Dev}

theorem close_elsewhere (hp : d.pc.presence ≠ .member) : NothingStaged d (Dev.close b d) :=
  close_stages_nothing fun h => hp ((selectable_iff d).mp h.2).2.1

theorem close_biu_elsewhere (hp : d.pc.presence ≠ .member) : (Dev.close b d).biu = d.biu := by
  rw [close_biu, (close_elsewhere hp).claim, close_slot_unwanted b fun h => hp h.1]

theorem close_ht_elsewhere (hp : d.pc.presence ≠ .member) : (Dev.close b d).ht = { d.ht with headTimer := none } := by
  have stopped : (Dev.close b d).ht.headTimer = none := by
    rw [close_headTimer, keepHeadTimer_stops]
    rw [noteTake_headAsMember, ← Bool.not_eq_true, headAsMember_iff]
    exact fun h => hp h.1
  rw [close_ht, stopped, (close_elsewhere hp).handleCtr]

theorem close_selTimer_elsewhere (hp : d.pc.presence ≠ .member) : (Dev.close b d).oqs.selTimer = none := by
  by_contra hruns
  have h := (selectable_iff _).mp ((close_selTimer_runs_iff b d).mp hruns)
  rw [close_pc] at h
  exact hp h.2.1

/-- Every entry stands, but for its intent flag. -/
theorem close_entry_elsewhere (hp : d.pc.presence ≠ .member) {x : Entry} (hx : x ∈ d.oqs.queue) :
    ∃ y ∈ (Dev.close b d).oqs.queue, y.tag = x.tag ∧ y.cls = x.cls ∧ y.bypass = x.bypass := by
  have stands : unflagged x ∈ (Dev.close b d).oqs.queue.map unflagged := by
    rw [(close_elsewhere hp).queue]
    exact List.mem_map_of_mem hx
  obtain ⟨y, hy, hyx⟩ := List.mem_map.mp stands
  have same {α : Type} (f : Entry → α) (hf : ∀ e, f (unflagged e) = f e) : f y = f x := by rw [← hf y, hyx, hf x]
  exact ⟨y, hy, same Entry.tag fun _ => rfl, same Entry.cls fun _ => rfl, same Entry.bypass fun _ => rfl⟩

end Closed

/-- What stands of the retention scheduler where the staged-RFB marks and the plea mark alone change. -/
structure Standing (a b : Rs) : Prop where
  urgency : b.urgency = a.urgency
  hold : b.hold = a.hold
  grade : b.grade = a.grade
  region : ∀ n, (b.regionAt n).debt = (a.regionAt n).debt ∧ (b.regionAt n).pointer = (a.regionAt n).pointer ∧
    (b.regionAt n).timer = (a.regionAt n).timer ∧ (b.regionAt n).lapses = (a.regionAt n).lapses

theorem standing_of_core {a b : Rs} (h : b.core = a.core) : Standing a b where
  urgency := show b.core.urgency = a.core.urgency by rw [h]
  hold := show b.core.hold = a.core.hold by rw [h]
  grade := show b.core.grade = a.core.grade by rw [h]
  region n := by
    have unmarked : ({ b.regionAt n with stagedRfb := false } : Region) = { a.regionAt n with stagedRfb := false } := by
      rw [← regionAt_core, ← regionAt_core, h]
    obtain ⟨-, hdebt, hpointer, hlapses, htimer, -⟩ := Region.mk.inj unmarked
    exact ⟨hdebt, hpointer, htimer, hlapses⟩

theorem cancelled_setupLock (l : List Byte) (p : Pu) : (p.cancelled l).setupLock = p.setupLock := by
  induction l generalizing p with
  | nil => rfl
  | cons t l ih => exact (ih (p.push (.cancelled t))).trans (push_setupLock p _)

theorem exec_linkFaultRecovery {s : State} (hp : s.dev.pc.presence = .linkFault) (hs : s.dev.settled = true)
    (ha : s.dev.biu.attempting = false) :
    exec .linkFaultRecovery s = .next { s with dev := Dev.close s.dev s.dev.recover } := by
  have hup : s.dev.Up := fun h => absurd (hp.symm.trans h) (by decide)
  exact congrArg s.answer (act_up _ Dev.recover s.dev hup (by simp [hp, hs, ha]))

/-- Settles O50: the entry by what has settled, the recovery as one equation, and its step closed out of MEMBER. -/
theorem linkFaultIsEnteredAndRecovered : Obligations.LinkFaultIsEnteredAndRecovered := by
  refine ⟨fun d c => ?entered, recover_eq, fun s hp hs ha => ?recovered⟩
  case entered =>
    intro may entered
    have hmay : d.pc.presence.mayLinkFault = true ↔ may := mayLinkFault_iff _
    refine ⟨fun h => if_neg (mt hmay.mp h), fun h hs ha => ?_, fun h hno => ?_, settled_iff d⟩
    · rw [linkFault_enters c (hmay.mpr h), hs, ha]
      rfl
    · have unsettled : (d.settled && !d.biu.attempting) = false := by
        rcases hno with hno | hno <;> simp [hno]
      rw [linkFault_enters c (hmay.mpr h), unsettled]
      rfl
  case recovered =>
    have emptied := emptyOutbox_settled hs ha
    have view := emptyOutbox_view s.dev
    have hout : s.dev.recover.pc.presence ≠ .member := by
      rw [recover_eq]
      exact nofun
    have kept := standing_of_core (recover_core s.dev)
    refine ⟨_, exec_linkFaultRecovery hp hs ha, ?biu, ?ht, ?pc, fun x => ?roster, ?mark, ?urgency, ?hold, ?grade,
      fun n => ?region, ?pu, ?lock, close_selTimer_elsewhere hout, fun e he => ?entry⟩
    case biu =>
      rw [close_biu_elsewhere hout, recover_eq, emptied.biu]
    case ht =>
      rw [close_ht_elsewhere hout, recover_eq, view.ht]
      rfl
    case pc =>
      rw [close_pc, recover_eq]
    case roster =>
      rw [close_pc, recover_eq]
      exact rosterAt_map (p := s.dev.pc) (f := RosterRec.cleared) rfl x
    case mark =>
      rw [close_pleaMark, recover_eq]
    case urgency =>
      rw [close_urgency]
      exact kept.urgency
    case hold =>
      rw [close_hold]
      exact kept.hold
    case grade =>
      rw [close_grade]
      exact kept.grade
    case region =>
      rw [close_debt, close_pointer, close_timer, close_lapses]
      exact kept.region n
    case pu =>
      rw [close_pu, recover_eq, emptied.pu]
    case lock =>
      rw [close_pu, recover_eq, push_setupLock, cancelled_setupLock, emptied.pu]
    case entry =>
      obtain ⟨y, hy, htag, hcls, hbypass⟩ := emptied.entries e he
      have hy' : y ∈ s.dev.recover.oqs.queue := by rw [recover_eq]; exact hy
      obtain ⟨z, hz, ztag, zcls, zbypass⟩ := close_entry_elsewhere (b := s.dev) hout hy'
      exact ⟨z, hz, ztag.trans htag, zcls.trans hcls, zbypass.trans hbypass⟩

end Sys2Proof.LinkFaults
end
